-- ==== Sys2Proof/Word.lean ====
section
/-! DEFINITION. The word types of the Binary-Angle Engine (00_scope.md R10). -/

namespace Sys2Proof

/-- A 32-bit word: a ROM entry, RESULT, or a binary32 pattern `b32` (R10). -/
abbrev Word := BitVec 32

/-- An 8-bit binary angle, 256 steps per turn (R10, R17). -/
abbrev Angle := BitVec 8

/-- A 48-bit command word (R10, 30_encoding.md R70). It is a number, not a byte sequence (R9). -/
abbrev CmdWord := BitVec 48

/-- The 2-bit STATUS code (10_state.md R25). -/
abbrev StatusCode := BitVec 2

end Sys2Proof
end

