-- ==== Sys2Proof/Machine/Operands.lean ====
section
/-! DEFINITION. The fields of a command word, the fields of an angle and the result formats
(30_encoding.md R71, R74, R75; 41_trig.md R130). -/

namespace Sys2Proof.Machine

/-- `OP = cmd[47:44]` (R71). -/
def opField (w : CmdWord) : BitVec 4 := w.extractLsb' 44 4

/-- `RSV = cmd[43:40]` (R71). -/
def rsvField (w : CmdWord) : BitVec 4 := w.extractLsb' 40 4

/-- `b = cmd[39:32]` (R71). -/
def operandB (w : CmdWord) : Angle := w.extractLsb' 32 8

/-- `x = cmd[31:0]`, read by FROMRAD only (R71). -/
def operandX (w : CmdWord) : Word := w.extractLsb' 0 32

/-- `a = cmd[7:0]`, read by every opcode but FROMRAD (R71). -/
def operandA (w : CmdWord) : Angle := w.extractLsb' 0 8

/-- `zext_32` of an angle: the format of every angle result (R75). -/
def zext32 (a : Angle) : Word := a.setWidth 32

/-- The quadrant `q = a[7:6]` (41_trig.md R130). -/
def quadrant (a : Angle) : BitVec 2 := a.extractLsb' 6 2

/-- The position in the quadrant, `low6 = a[5:0]` (R130). -/
def low6 (a : Angle) : BitVec 6 := a.extractLsb' 0 6

/-- The direct SIN_ROM index `low6` (R130), in 0..63 (20_memory.md R52). -/
def directIndex (a : Angle) : Fin 65 := ⟨(low6 a).toNat, by have := (low6 a).isLt; omega⟩

/-- The reflected SIN_ROM index `64 - low6` (R130), in 1..64 (20_memory.md R52). -/
def reflectedIndex (a : Angle) : Fin 65 := ⟨64 - (low6 a).toNat, by omega⟩

/-- The full-byte SIN_ROM index `64 - a` of COS in quadrant 0 (41_trig.md R132). -/
def fullByteIndex (a : Angle) : Fin 65 := ⟨64 - a.toNat, by omega⟩

end Sys2Proof.Machine
end

