-- ==== Sys2Proof/Syntax.lean ====
section
/-! DEFINITION. The eleven commands of BAE-CMD 1, one constructor per row of the opcode table. -/

namespace Sys2Proof

/-- A decoded command (30_encoding.md R72). `a` and `b` are the angle operands, `x` the binary32
operand of FROMRAD (R71). The bits a command ignores (R74) are not part of it. -/
inductive Instr where
  | neg     (a : Angle)
  | add     (a b : Angle)
  | sub     (a b : Angle)
  | mul     (a b : Angle)
  | div     (a b : Angle)
  | rem     (a b : Angle)
  | cmp     (a b : Angle)
  | sin     (a : Angle)
  | cos     (a : Angle)
  | torad   (a : Angle)
  | fromrad (x : Word)
deriving DecidableEq, Repr

end Sys2Proof
end

