-- ==== Sys2Proof/WellFormed.lean ====
section
/-! DEFINITION. Which command words and which commands are well formed (30_encoding.md R70, R76). -/

namespace Sys2Proof

/-- Every command is well formed: an operand's width is its type, and every value of every operand
is legal (30_encoding.md R74, 40_angle_alu.md R100: "there is no 'invalid' angle"). -/
def Instr.wellFormed : Instr → Bool
  | .neg _ => true
  | .add _ _ => true
  | .sub _ _ => true
  | .mul _ _ => true
  | .div _ _ => true
  | .rem _ _ => true
  | .cmp _ _ => true
  | .sin _ => true
  | .cos _ => true
  | .torad _ => true
  | .fromrad _ => true

/-- The reserved field is 0 (R76). -/
def reservedFieldClear (w : CmdWord) : Bool := w.extractLsb' 40 4 = 0#4

/-- The opcode is one of the eleven assigned ones, 0x1 to 0xB (R72, R76). -/
def opcodeAssigned (w : CmdWord) : Bool :=
  1 ≤ (w.extractLsb' 44 4).toNat && (w.extractLsb' 44 4).toNat ≤ 11

/-- A legal command word: R76 raises ILLEGAL on every other word. -/
def wellFormedWord (w : CmdWord) : Bool := reservedFieldClear w && opcodeAssigned w

end Sys2Proof
end

