-- ==== Sys2Proof/Decode.lean ====
section
/-! DEFINITION. The decoder, total on all 48-bit words and rejecting by name (30_encoding.md R71 to R78),
and the encoder (R80). -/

namespace Sys2Proof

open Sys2Proof.Machine

/-- Why a word is no command (30_encoding.md R76). -/
inductive DecodeError where
  /-- `RSV ≠ 0`. -/
  | reservedField (rsv : BitVec 4)
  /-- `RSV = 0` and `OP` is 0x0 or 0xC to 0xF. -/
  | reservedOpcode (op : BitVec 4)
deriving DecidableEq, Repr

/-- The command a word stands for: the dispatch of R73, with RSV tested first (R73, R76). The bits a
command ignores (R74) are not looked at. -/
def decode (w : CmdWord) : Except DecodeError Instr :=
  if rsvField w ≠ 0#4 then .error (.reservedField (rsvField w))
  else
    match opField w with
    | 0x1#4 => .ok (.neg (operandA w))
    | 0x2#4 => .ok (.add (operandA w) (operandB w))
    | 0x3#4 => .ok (.sub (operandA w) (operandB w))
    | 0x4#4 => .ok (.mul (operandA w) (operandB w))
    | 0x5#4 => .ok (.div (operandA w) (operandB w))
    | 0x6#4 => .ok (.rem (operandA w) (operandB w))
    | 0x7#4 => .ok (.cmp (operandA w) (operandB w))
    | 0x8#4 => .ok (.sin (operandA w))
    | 0x9#4 => .ok (.cos (operandA w))
    | 0xA#4 => .ok (.torad (operandA w))
    | 0xB#4 => .ok (.fromrad (operandX w))
    | op => .error (.reservedOpcode op)

/-- A command word from its fields, RSV = 0: `O 0 bb AAAAAAAA` (R80). -/
def commandWord (op : BitVec 4) (b : Angle) (bigA : Word) : CmdWord := op ++ 0x0#4 ++ b ++ bigA

/-- The word a command assembles to: B = 0 where the command does not read it, and A is the
zero-extended angle or x (R80). -/
def encode : Instr → CmdWord
  | .neg a => commandWord 0x1 0 (zext32 a)
  | .add a b => commandWord 0x2 b (zext32 a)
  | .sub a b => commandWord 0x3 b (zext32 a)
  | .mul a b => commandWord 0x4 b (zext32 a)
  | .div a b => commandWord 0x5 b (zext32 a)
  | .rem a b => commandWord 0x6 b (zext32 a)
  | .cmp a b => commandWord 0x7 b (zext32 a)
  | .sin a => commandWord 0x8 0 (zext32 a)
  | .cos a => commandWord 0x9 0 (zext32 a)
  | .torad a => commandWord 0xA 0 (zext32 a)
  | .fromrad x => commandWord 0xB 0 x

/-- The bits of a command's word that mean something: OP, RSV and the operands it reads (R72, R74). -/
def meaningfulBits : Instr → CmdWord
  | .neg _ => 0xFF00000000FF#48
  | .add _ _ => 0xFFFF000000FF#48
  | .sub _ _ => 0xFFFF000000FF#48
  | .mul _ _ => 0xFFFF000000FF#48
  | .div _ _ => 0xFFFF000000FF#48
  | .rem _ _ => 0xFFFF000000FF#48
  | .cmp _ _ => 0xFFFF000000FF#48
  | .sin _ => 0xFF00000000FF#48
  | .cos _ => 0xFF00000000FF#48
  | .torad _ => 0xFF00000000FF#48
  | .fromrad _ => 0xFF00FFFFFFFF#48

/-- The command the decoder reads from an opcode-table word. A command is one 48-bit number (R70,
R78), so there is no byte order to lay out; bits above `nbits` are 0. -/
def decodeTableWord (nbits w : Nat) : Option Instr :=
  if nbits ≤ 48 then (decode (BitVec.ofNat 48 (w % 2 ^ nbits))).toOption else none

end Sys2Proof
end

