-- ==== Sys2Proof/Config.lean ====
section
/-! DEFINITION. The parameters a BAE is built with (00_scope.md R7) and the values the spec leaves free. -/

namespace Sys2Proof

/-- How FROMRAD rounds the product to an integer: the values of the parameter `FROMRAD_ROUND`
(00_scope.md R7, R12). -/
inductive RoundMode where
  | halfAwayFromZero
  | halfEven
  | towardZero
deriving DecidableEq, Repr

/-- The parameters of 00_scope.md R7 that are no ROM. The two ROMs are fields of State. -/
structure Params where
  /-- `RAD_SCALE` (10_state.md R32). -/
  radScale : Word
  /-- `FROMRAD_ROUND` (00_scope.md R12). -/
  fromradRound : RoundMode
  /-- `NONFINITE_ANGLE` (42_conversion.md R152). -/
  nonfiniteAngle : Angle
deriving DecidableEq, Repr

/-- FREE VALUE. RESULT where it is unspecified: after DIVZERO or ILLEGAL (10_state.md R40) and from
power-up to the first reset edge (70_reset_and_hazards.md R212). Log 3, log 6. -/
opaque Config.freeResult : Nat → Word

/-- FREE VALUE. STATUS from power-up to the first reset edge (R212). Log 6. -/
opaque Config.freeStatus : Nat → StatusCode

/-- FREE VALUE. RSP_VALID from power-up to the first reset edge (R212). Log 6. -/
opaque Config.freeRspValid : Nat → Bool

/-- FREE VALUE. `fmul(a, b)` where a or b is not finite: 00_scope.md R11 gives the product of finite
operands only. FROMRAD reaches it only with a non-finite `RAD_SCALE`. Log 10. -/
opaque Config.freeProduct : Word → Word → Word

end Sys2Proof
end

