-- ==== Sys2Proof/Machine/Defaults.lean ====
section
/-! DEFINITION. The default of every parameter of 00_scope.md R7: the two reference ROM tables of
10_state.md R27 and R30, word for word, and the constants of FROMRAD. Log 7. -/

namespace Sys2Proof.Machine

/-- The reference default of SIN_ROM (10_state.md R27), words 0 to 32. -/
def defaultSinRomPart0 : List Word :=
  [0x00000000#32, 0x3CC90AB0#32, 0x3D48FB30#32, 0x3D96A905#32, 0x3DC8BD36#32, 0x3DFAB273#32,
   0x3E164083#32, 0x3E2F10A2#32, 0x3E47C5C2#32, 0x3E605C13#32, 0x3E78CFCC#32, 0x3E888E93#32,
   0x3E94A031#32, 0x3EA09AE5#32, 0x3EAC7CD4#32, 0x3EB8442A#32, 0x3EC3EF15#32, 0x3ECF7BCA#32,
   0x3EDAE880#32, 0x3EE63375#32, 0x3EF15AEA#32, 0x3EFC5D27#32, 0x3F039C3D#32, 0x3F08F59B#32,
   0x3F0E39DA#32, 0x3F13682A#32, 0x3F187FC0#32, 0x3F1D7FD1#32, 0x3F226799#32, 0x3F273656#32,
   0x3F2BEB4A#32, 0x3F3085BB#32, 0x3F3504F3#32]

/-- The reference default of SIN_ROM (10_state.md R27), words 33 to 64. -/
def defaultSinRomPart1 : List Word :=
  [0x3F396842#32, 0x3F3DAEF9#32, 0x3F41D870#32, 0x3F45E403#32, 0x3F49D112#32, 0x3F4D9F02#32,
   0x3F514D3D#32, 0x3F54DB31#32, 0x3F584853#32, 0x3F5B941A#32, 0x3F5EBE05#32, 0x3F61C598#32,
   0x3F64AA59#32, 0x3F676BD8#32, 0x3F6A09A7#32, 0x3F6C835E#32, 0x3F6ED89E#32, 0x3F710908#32,
   0x3F731447#32, 0x3F74FA0B#32, 0x3F76BA07#32, 0x3F7853F8#32, 0x3F79C79D#32, 0x3F7B14BE#32,
   0x3F7C3B28#32, 0x3F7D3AAC#32, 0x3F7E1324#32, 0x3F7EC46D#32, 0x3F7F4E6D#32, 0x3F7FB10F#32,
   0x3F7FEC43#32, 0x3F800000#32]

/-- The reference default of SIN_ROM (10_state.md R27). -/
def defaultSinRom : Vector Word 65 := ⟨(defaultSinRomPart0 ++ defaultSinRomPart1).toArray, rfl⟩

/-- The reference default of RAD_ROM (10_state.md R30), words 0 to 63. -/
def defaultRadRomPart0 : List Word :=
  [0x00000000#32, 0x3CC90FDB#32, 0x3D490FDB#32, 0x3D96CBE4#32, 0x3DC90FDB#32, 0x3DFB53D1#32,
   0x3E16CBE4#32, 0x3E2FEDDF#32, 0x3E490FDB#32, 0x3E6231D6#32, 0x3E7B53D1#32, 0x3E8A3AE6#32,
   0x3E96CBE4#32, 0x3EA35CE2#32, 0x3EAFEDDF#32, 0x3EBC7EDD#32, 0x3EC90FDB#32, 0x3ED5A0D8#32,
   0x3EE231D6#32, 0x3EEEC2D4#32, 0x3EFB53D1#32, 0x3F03F267#32, 0x3F0A3AE6#32, 0x3F108365#32,
   0x3F16CBE4#32, 0x3F1D1463#32, 0x3F235CE2#32, 0x3F29A560#32, 0x3F2FEDDF#32, 0x3F36365E#32,
   0x3F3C7EDD#32, 0x3F42C75C#32, 0x3F490FDB#32, 0x3F4F5859#32, 0x3F55A0D8#32, 0x3F5BE957#32,
   0x3F6231D6#32, 0x3F687A55#32, 0x3F6EC2D4#32, 0x3F750B52#32, 0x3F7B53D1#32, 0x3F80CE28#32,
   0x3F83F267#32, 0x3F8716A7#32, 0x3F8A3AE6#32, 0x3F8D5F26#32, 0x3F908365#32, 0x3F93A7A5#32,
   0x3F96CBE4#32, 0x3F99F023#32, 0x3F9D1463#32, 0x3FA038A2#32, 0x3FA35CE2#32, 0x3FA68121#32,
   0x3FA9A560#32, 0x3FACC9A0#32, 0x3FAFEDDF#32, 0x3FB3121F#32, 0x3FB6365E#32, 0x3FB95A9E#32,
   0x3FBC7EDD#32, 0x3FBFA31C#32, 0x3FC2C75C#32, 0x3FC5EB9B#32]

/-- The reference default of RAD_ROM (10_state.md R30), words 64 to 127. -/
def defaultRadRomPart1 : List Word :=
  [0x3FC90FDB#32, 0x3FCC341A#32, 0x3FCF5859#32, 0x3FD27C99#32, 0x3FD5A0D8#32, 0x3FD8C518#32,
   0x3FDBE957#32, 0x3FDF0D97#32, 0x3FE231D6#32, 0x3FE55615#32, 0x3FE87A55#32, 0x3FEB9E94#32,
   0x3FEEC2D4#32, 0x3FF1E713#32, 0x3FF50B52#32, 0x3FF82F92#32, 0x3FFB53D1#32, 0x3FFE7811#32,
   0x4000CE28#32, 0x40026048#32, 0x4003F267#32, 0x40058487#32, 0x400716A7#32, 0x4008A8C7#32,
   0x400A3AE6#32, 0x400BCD06#32, 0x400D5F26#32, 0x400EF145#32, 0x40108365#32, 0x40121585#32,
   0x4013A7A5#32, 0x401539C4#32, 0x4016CBE4#32, 0x40185E04#32, 0x4019F023#32, 0x401B8243#32,
   0x401D1463#32, 0x401EA683#32, 0x402038A2#32, 0x4021CAC2#32, 0x40235CE2#32, 0x4024EF01#32,
   0x40268121#32, 0x40281341#32, 0x4029A560#32, 0x402B3780#32, 0x402CC9A0#32, 0x402E5BC0#32,
   0x402FEDDF#32, 0x40317FFF#32, 0x4033121F#32, 0x4034A43E#32, 0x4036365E#32, 0x4037C87E#32,
   0x40395A9E#32, 0x403AECBD#32, 0x403C7EDD#32, 0x403E10FD#32, 0x403FA31C#32, 0x4041353C#32,
   0x4042C75C#32, 0x4044597C#32, 0x4045EB9B#32, 0x40477DBB#32]

/-- The reference default of RAD_ROM (10_state.md R30), words 128 to 191. -/
def defaultRadRomPart2 : List Word :=
  [0x40490FDB#32, 0x404AA1FA#32, 0x404C341A#32, 0x404DC63A#32, 0x404F5859#32, 0x4050EA79#32,
   0x40527C99#32, 0x40540EB9#32, 0x4055A0D8#32, 0x405732F8#32, 0x4058C518#32, 0x405A5737#32,
   0x405BE957#32, 0x405D7B77#32, 0x405F0D97#32, 0x40609FB6#32, 0x406231D6#32, 0x4063C3F6#32,
   0x40655615#32, 0x4066E835#32, 0x40687A55#32, 0x406A0C75#32, 0x406B9E94#32, 0x406D30B4#32,
   0x406EC2D4#32, 0x407054F3#32, 0x4071E713#32, 0x40737933#32, 0x40750B52#32, 0x40769D72#32,
   0x40782F92#32, 0x4079C1B2#32, 0x407B53D1#32, 0x407CE5F1#32, 0x407E7811#32, 0x40800518#32,
   0x4080CE28#32, 0x40819738#32, 0x40826048#32, 0x40832958#32, 0x4083F267#32, 0x4084BB77#32,
   0x40858487#32, 0x40864D97#32, 0x408716A7#32, 0x4087DFB7#32, 0x4088A8C7#32, 0x408971D6#32,
   0x408A3AE6#32, 0x408B03F6#32, 0x408BCD06#32, 0x408C9616#32, 0x408D5F26#32, 0x408E2836#32,
   0x408EF145#32, 0x408FBA55#32, 0x40908365#32, 0x40914C75#32, 0x40921585#32, 0x4092DE95#32,
   0x4093A7A5#32, 0x409470B4#32, 0x409539C4#32, 0x409602D4#32]

/-- The reference default of RAD_ROM (10_state.md R30), words 192 to 255. -/
def defaultRadRomPart3 : List Word :=
  [0x4096CBE4#32, 0x409794F4#32, 0x40985E04#32, 0x40992714#32, 0x4099F023#32, 0x409AB933#32,
   0x409B8243#32, 0x409C4B53#32, 0x409D1463#32, 0x409DDD73#32, 0x409EA683#32, 0x409F6F92#32,
   0x40A038A2#32, 0x40A101B2#32, 0x40A1CAC2#32, 0x40A293D2#32, 0x40A35CE2#32, 0x40A425F1#32,
   0x40A4EF01#32, 0x40A5B811#32, 0x40A68121#32, 0x40A74A31#32, 0x40A81341#32, 0x40A8DC51#32,
   0x40A9A560#32, 0x40AA6E70#32, 0x40AB3780#32, 0x40AC0090#32, 0x40ACC9A0#32, 0x40AD92B0#32,
   0x40AE5BC0#32, 0x40AF24CF#32, 0x40AFEDDF#32, 0x40B0B6EF#32, 0x40B17FFF#32, 0x40B2490F#32,
   0x40B3121F#32, 0x40B3DB2F#32, 0x40B4A43E#32, 0x40B56D4E#32, 0x40B6365E#32, 0x40B6FF6E#32,
   0x40B7C87E#32, 0x40B8918E#32, 0x40B95A9E#32, 0x40BA23AD#32, 0x40BAECBD#32, 0x40BBB5CD#32,
   0x40BC7EDD#32, 0x40BD47ED#32, 0x40BE10FD#32, 0x40BEDA0D#32, 0x40BFA31C#32, 0x40C06C2C#32,
   0x40C1353C#32, 0x40C1FE4C#32, 0x40C2C75C#32, 0x40C3906C#32, 0x40C4597C#32, 0x40C5228B#32,
   0x40C5EB9B#32, 0x40C6B4AB#32, 0x40C77DBB#32, 0x40C846CB#32]

/-- The reference default of RAD_ROM (10_state.md R30). -/
def defaultRadRom : Vector Word 256 :=
  ⟨(defaultRadRomPart0 ++ defaultRadRomPart1 ++ defaultRadRomPart2 ++ defaultRadRomPart3).toArray,
   by simp only [List.size_toArray, List.length_append]; rfl⟩

/-- RAD_SCALE `0x4322568A`, rounding half away from zero, NONFINITE_ANGLE 0 (00_scope.md R7). -/
def defaultParams : Params :=
  { radScale := 0x4322568A#32, fromradRound := .halfAwayFromZero, nonfiniteAngle := 0#8 }

/-- The alternative RAD_SCALE of 42_conversion.md R157, the rest as the default. -/
def alternativeParams : Params := { defaultParams with radScale := 0x4222F983#32 }

end Sys2Proof.Machine
end

