-- ==== Sys2Proof/Machine/Flags.lean ====
section
/-! DEFINITION. The STATUS codes, the failures that set them, and the one-hot ordering of CMP. The BAE
has no flags (10_state.md R36): these are its only condition-like values. -/

namespace Sys2Proof.Machine

/-- STATUS = OK, `0b00` (10_state.md R25). -/
def Status.ok : StatusCode := 0b00#2

/-- STATUS = DIVZERO, `0b01` (R25). -/
def Status.divzero : StatusCode := 0b01#2

/-- STATUS = ILLEGAL, `0b10` (R25). -/
def Status.illegal : StatusCode := 0b10#2

/-- The two failures a command can raise (60_exceptions.md R180 to R183). -/
inductive Failure where
  /-- DIV or REM by the zero angle (R181). -/
  | divzero
  /-- A reserved encoding (R182). -/
  | illegal
deriving DecidableEq, Repr

/-- The STATUS code of a failure (R181, R182). -/
def Failure.code : Failure → StatusCode
  | .divzero => Status.divzero
  | .illegal => Status.illegal

/-- One condition as a 32-bit 0 or 1. -/
def conditionBit (p : Bool) : Word := (BitVec.ofBool p).setWidth 32

/-- CMP's result `GT << 2 | LT << 1 | EQ`, unsigned (40_angle_alu.md R107). -/
def orderingWord (a b : Angle) : Word :=
  conditionBit (b < a) <<< 2 ||| conditionBit (a < b) <<< 1 ||| conditionBit (a = b)

end Sys2Proof.Machine
end

