-- ==== Sys2Proof/Machine/State.lean ====
section
/-! DEFINITION. Everything the spec gives the BAE, the host's events still to come, and the state after
reset. INVENTORY.md lists every field with its rule. -/

namespace Sys2Proof.Machine

/-- The input ports as sampled at one rising edge of `clk` (10_state.md R23). -/
structure PortInputs where
  rst : Bool
  cmdValid : Bool
  cmd : CmdWord
deriving DecidableEq, Repr

/-- What the host does next. Log 1. -/
inductive HostEvent where
  /-- A rising edge with stable inputs (10_state.md R38). -/
  | edge (p : PortInputs)
  /-- A rising edge at which the inputs are not stable (70_reset_and_hazards.md R216). -/
  | unstableEdge
  /-- Between edges the host reads `rsp_valid` alone, to learn whether a response stands (10_state.md
  R26; 70_reset_and_hazards.md R211). -/
  | pollValid
  /-- Between edges the host reads all three output ports (R211, R217). -/
  | sample
  /-- The host stops `clk` for a while (60_exceptions.md R195). -/
  | clockStopped
  /-- Power is applied (70_reset_and_hazards.md R212, R213). -/
  | powerOn
deriving DecidableEq, Repr

/-- The three output ports `rsp_valid`, `rsp_result`, `rsp_status` (10_state.md R23). -/
structure Response where
  valid : Bool
  result : Word
  status : StatusCode
deriving DecidableEq, Repr

/-- What one read of the output ports left with the host. Log 5. -/
inductive HostRead where
  /-- `rsp_valid` alone (10_state.md R26). -/
  | valid (v : Bool)
  /-- All three ports (R39). -/
  | response (p : Response)
  /-- All three ports before the first response: a recorded failure, with `rsp_valid` and no value of
  RESULT and STATUS (70_reset_and_hazards.md R211 "a fault, not as the value 0"; 93 U15 `fault`: "the
  model records a failure"). -/
  | early (v : Bool)
deriving DecidableEq, Repr

/-- The state of the BAE (10_state.md R20), its parameters (00_scope.md R7), what the spec asks a model
to record (60_exceptions.md R189, 70_reset_and_hazards.md R211, R212), and the model's own input list,
sample list and free-value counter. -/
structure State where
  /-- RESULT (10_state.md R24). -/
  result : Word
  /-- STATUS (R25). -/
  status : StatusCode
  /-- RSP_VALID (R26). -/
  rspValid : Bool
  /-- SIN_ROM, read-only (R27, R29). -/
  sinRom : Vector Word 65
  /-- RAD_ROM, read-only (R30, R31). -/
  radRom : Vector Word 256
  /-- RAD_SCALE, FROMRAD_ROUND and NONFINITE_ANGLE, fixed (00_scope.md R7). -/
  params : Params
  /-- A rising edge with `rst` = 1 has come since power-up (70_reset_and_hazards.md R212). -/
  booted : Bool
  /-- A command has been accepted since the last reset or power-up (R211). -/
  responded : Bool
  /-- The sticky record of failed responses, oldest first (60_exceptions.md R189). -/
  failures : List Failure
  /-- The host's events still to come, the next one first. Log 1. -/
  inputs : List HostEvent
  /-- What the host has read, oldest first; nothing removes an entry, so the reads that came too early
  stay on record (93 U15). Log 5. -/
  samples : List HostRead
  /-- Which free value is drawn next. Log 3. -/
  freeCount : Nat
deriving DecidableEq, Repr

/-- Why the machine stops with a fault: never. What the spec calls a fault is a failure the model records
while the machine goes on (93_implementation_defined.md, `fault` and `stuck`), so no constructor is
needed. -/
inductive Fault where
deriving DecidableEq, Repr

/-- Why the model has no step. -/
inductive Refusal where
  /-- Raised by exec for an instruction without a meaning. No arm of exec raises it. Safe. -/
  | notModelled (mnemonic : String)
  /-- Raised by an edge whose inputs are not stable: 70_reset_and_hazards.md R216, "a model has no step
  for it". Safe: the model stops where the hardware goes on. -/
  | unstableInput
deriving DecidableEq, Repr

/-- The BAE right after a reset edge (10_state.md R37), with the reference ROMs and the default
parameters (00_scope.md R7) and no host event placed. Log 1, 3, 4, 5, 6, 7. -/
def State.reset : State where
  result := 0x00000000#32
  status := Status.ok
  rspValid := false
  sinRom := defaultSinRom
  radRom := defaultRadRom
  params := defaultParams
  booted := true
  responded := false
  failures := []
  inputs := []
  samples := []
  freeCount := 0

end Sys2Proof.Machine
end

