-- ==== Sys2Proof/Machine/Ops.lean ====
section
/-! DEFINITION. The operations every command and every edge share: reading a ROM, completing or failing a
command, reset, idling, power-up and the host's read. -/

namespace Sys2Proof.Machine

/-- `RomRead(SIN_ROM, i)` (20_memory.md R51). -/
def romReadSin (s : State) (i : Fin 65) : Word := s.sinRom[i]

/-- `RomRead(RAD_ROM, i)`; the index is a whole angle byte (R51, R53). -/
def romReadRad (s : State) (i : Angle) : Word := s.radRom[i.toNat]'(i.isLt)

/-- How `Execute` ends: `OK(result)` or a raised status (00_scope.md R13). -/
inductive CmdOutcome where
  | ok (r : Word)
  | raised (f : Failure)
deriving DecidableEq, Repr

/-- A command completes: the arm `OK(r)` of 10_state.md R38. -/
def completeOk (r : Word) (s : State) : State :=
  { s with result := r, status := Status.ok, rspValid := true, responded := true }

/-- A command fails: the arms `raise` of R38. RESULT is a free value (R40, log 3), STATUS names the
failure, and the sticky record gains it (60_exceptions.md R189). There is no trap entry (R186) and
so no return (R187). -/
def raiseFailure (f : Failure) (s : State) : State :=
  { s with
    result := Config.freeResult s.freeCount
    freeCount := s.freeCount + 1
    status := f.code
    rspValid := true
    responded := true
    failures := s.failures ++ [f] }

/-- The registers take a command's outcome (R38). -/
def respond (o : CmdOutcome) (s : State) : State :=
  match o with
  | .ok r => completeOk r s
  | .raised f => raiseFailure f s

/-- A rising edge with `rst` = 1 (10_state.md R37, R38). The record of failures stays
(95_test_vectors.md P4); the next response is the first after reset (70_reset_and_hazards.md R211). -/
def applyReset (s : State) : State :=
  { s with
    result := 0x00000000#32
    status := Status.ok
    rspValid := false
    booted := true
    responded := false }

/-- A rising edge with `rst` = 0 and `cmd_valid` = 0: RESULT and STATUS hold (R38). -/
def idle (s : State) : State := { s with rspValid := false }

/-- The three registers hold values the spec does not give (70_reset_and_hazards.md R212; log 6). -/
def drawRegisters (s : State) : State :=
  { s with
    result := Config.freeResult s.freeCount
    status := Config.freeStatus s.freeCount
    rspValid := Config.freeRspValid s.freeCount
    freeCount := s.freeCount + 1 }

/-- Power is applied: the registers are unspecified, the ROMs valid, and no reset edge or response
has come yet (R212). -/
def powerUp (s : State) : State :=
  { drawRegisters s with booted := false, responded := false }

/-- What the response ports show: the registers themselves (10_state.md R39). -/
def responsePorts (s : State) : Response :=
  { valid := s.rspValid, result := s.result, status := s.status }

/-- The host's record gains a read. No register changes. -/
def recordRead (r : HostRead) (s : State) : State := { s with samples := s.samples ++ [r] }

/-- What a read of all three ports leaves with the host: what they show, or before the first response a
recorded failure without a value (70_reset_and_hazards.md R211; 93 U15; log 5). -/
def sampledRead (s : State) : HostRead :=
  if s.responded then .response (responsePorts s) else .early (responsePorts s).valid

/-- The host reads `rsp_valid` alone (10_state.md R26, R39). -/
def hostPoll (s : State) : State := recordRead (.valid (responsePorts s).valid) s

/-- The host reads all three output ports (R39, R211). -/
def hostSample (s : State) : State := recordRead (sampledRead s) s

end Sys2Proof.Machine
end

