-- ==== Sys2Proof/Machine/Alu.lean ====
section
/-! DEFINITION. NEG, ADD, SUB, MUL, DIV, REM and CMP (40_angle_alu.md R100 to R107). An angle is an 8-bit
vector, so its arithmetic is that of Z/256Z. -/

namespace Sys2Proof.Machine

/-- `NEG(a) = OK(zext_32((0 - a) mod 256))` (R101). -/
def execNeg (a : Angle) (s : State) : Host.Outcome State Fault Refusal :=
  .next (respond (.ok (zext32 (0#8 - a))) s)

/-- `ADD(a, b) = OK(zext_32((a + b) mod 256))` (R102). -/
def execAdd (a b : Angle) (s : State) : Host.Outcome State Fault Refusal :=
  .next (respond (.ok (zext32 (a + b))) s)

/-- `SUB(a, b) = OK(zext_32((a - b) mod 256))` (R103). -/
def execSub (a b : Angle) (s : State) : Host.Outcome State Fault Refusal :=
  .next (respond (.ok (zext32 (a - b))) s)

/-- `MUL(a, b) = OK(zext_32((a · b) mod 256))` (R104). -/
def execMul (a b : Angle) (s : State) : Host.Outcome State Fault Refusal :=
  .next (respond (.ok (zext32 (a * b))) s)

/-- The unsigned quotient, or DIVZERO for the zero divisor (R105). -/
def divOutcome (a b : Angle) : CmdOutcome :=
  if b = 0#8 then .raised .divzero else .ok (zext32 (a / b))

/-- The unsigned remainder `a - b · floor(a / b)`, or DIVZERO for the zero divisor (R106). -/
def remOutcome (a b : Angle) : CmdOutcome :=
  if b = 0#8 then .raised .divzero else .ok (zext32 (a - b * (a / b)))

/-- DIV (R105). -/
def execDiv (a b : Angle) (s : State) : Host.Outcome State Fault Refusal :=
  .next (respond (divOutcome a b) s)

/-- REM (R106). -/
def execRem (a b : Angle) (s : State) : Host.Outcome State Fault Refusal :=
  .next (respond (remOutcome a b) s)

/-- CMP: the one-hot unsigned ordering (R107). -/
def execCmp (a b : Angle) (s : State) : Host.Outcome State Fault Refusal :=
  .next (respond (.ok (orderingWord a b)) s)

end Sys2Proof.Machine
end

