-- ==== Sys2Proof/Machine/Float.lean ====
section
/-! DEFINITION. binary32 patterns and the exact arithmetic FROMRAD needs (00_scope.md R11, R12).

Every finite binary32 value is an integer multiple of 2^-149, so magnitudes are held exactly as a
number of such units, and a real magnitude as a quotient of two naturals. -/

namespace Sys2Proof.Machine

/-- The sign bit `w[31]` (R11). -/
def signBit (w : Word) : Bool := w.getLsbD 31

/-- The biased exponent `w[30:23]` (R11). -/
def expField (w : Word) : Nat := (w.extractLsb' 23 8).toNat

/-- The fraction `w[22:0]` (R11). -/
def fracField (w : Word) : Nat := (w.extractLsb' 0 23).toNat

/-- Neither an infinity nor a NaN: the biased exponent is not 255 (R11). -/
def isFinite (w : Word) : Bool := expField w ≠ 255

/-- The magnitude of a finite pattern in units of 2^-149: `f` for a zero or subnormal, and
`(2^23 + f) · 2^(e-1)` for a normal (R11). -/
def magnitude (w : Word) : Nat :=
  if expField w = 0 then fracField w else (2 ^ 23 + fracField w) * 2 ^ (expField w - 1)

/-- One, in the units of `magnitude`. -/
def unitsPerOne : Nat := 2 ^ 149

/-- `fneg(w) = w ^ 0x80000000` (R11; log 8). -/
def fneg (w : Word) : Word := w ^^^ 0x80000000#32

/-- The non-negative quotient `num / den` rounded to an integer (R12). On magnitudes, "away from
zero" is up. -/
def roundQuotient (mode : RoundMode) (num den : Nat) : Nat :=
  let q := num / den
  let r := num % den
  match mode with
  | .halfAwayFromZero => if 2 * r < den then q else q + 1
  | .halfEven => if 2 * r < den ∨ 2 * r = den ∧ q % 2 = 0 then q else q + 1
  | .towardZero => q

/-- `RNE32` of a non-negative real, given as `num / den` units, as a pattern without its sign (R11).
The binade is chosen so that the significand has at most 24 bits; a significand that rounds up to
2^24 carries into the exponent, and everything past the largest binade is infinity. -/
def rne32 (num den : Nat) : Nat :=
  let shift := Nat.log2 (num / den) - 23
  min (shift * 2 ^ 23 + roundQuotient .halfEven num (den * 2 ^ shift)) 0x7F800000

/-- A pattern from its sign and the 31 bits below it. -/
def withSign (neg : Bool) (mag : Nat) : Word := BitVec.ofBool neg ++ BitVec.ofNat 31 mag

/-- `fmul(a, b)`, the correctly rounded binary32 product of finite operands, its sign the XOR of
theirs (R11). Where an operand is not finite the spec states no product: a free value (log 10). -/
def fmul (a b : Word) : Word :=
  if isFinite a && isFinite b then
    withSign (signBit a ^^ signBit b) (rne32 (magnitude a * magnitude b) unitsPerOne)
  else Config.freeProduct a b

/-- The integer a finite pattern rounds to (R12). -/
def roundToInt (mode : RoundMode) (w : Word) : Int :=
  let n := roundQuotient mode (magnitude w) unitsPerOne
  if signBit w then -(n : Int) else (n : Int)

end Sys2Proof.Machine
end

