-- ==== Sys2Proof/Machine/Conversion.lean ====
section
/-! DEFINITION. TORAD and FROMRAD (42_conversion.md R150 to R154). -/

namespace Sys2Proof.Machine

/-- TORAD: `RomRead(RAD_ROM, a)` (R150). -/
def execTorad (a : Angle) (s : State) : Host.Outcome State Fault Refusal :=
  .next (respond (.ok (romReadRad s a)) s)

/-- The angle of a binary32 radian value: one binary32 multiply by RAD_SCALE, a rounding to an
integer and a Euclidean wrap to 8 bits; NONFINITE_ANGLE where x or the product is not finite (R151,
R152; log 9). -/
def fromradAngle (p : Params) (x : Word) : Angle :=
  if isFinite x then
    let product := fmul x p.radScale
    if isFinite product then BitVec.ofInt 8 (roundToInt p.fromradRound product)
    else p.nonfiniteAngle
  else p.nonfiniteAngle

/-- FROMRAD (R151). -/
def execFromrad (x : Word) (s : State) : Host.Outcome State Fault Refusal :=
  .next (respond (.ok (zext32 (fromradAngle s.params x))) s)

end Sys2Proof.Machine
end

