-- ==== Sys2Proof/Machine/Trig.lean ====
section
/-! DEFINITION. SIN and COS: the quadrant selector, the ROM indexer and the sign stage (41_trig.md R130 to
R132). -/

namespace Sys2Proof.Machine

/-- The word SIN returns: one SIN_ROM word, its sign flipped in quadrants 2 and 3 (R131). -/
def sinWord (s : State) (a : Angle) : Word :=
  match quadrant a with
  | 0b00#2 => romReadSin s (directIndex a)
  | 0b01#2 => romReadSin s (reflectedIndex a)
  | 0b10#2 => fneg (romReadSin s (directIndex a))
  | 0b11#2 => fneg (romReadSin s (reflectedIndex a))

/-- The word COS returns: one SIN_ROM word, its sign flipped in quadrants 1 and 2 (R132). -/
def cosWord (s : State) (a : Angle) : Word :=
  match quadrant a with
  | 0b00#2 => romReadSin s (fullByteIndex a)
  | 0b01#2 => fneg (romReadSin s (directIndex a))
  | 0b10#2 => fneg (romReadSin s (reflectedIndex a))
  | 0b11#2 => romReadSin s (directIndex a)

/-- SIN (R131). -/
def execSin (a : Angle) (s : State) : Host.Outcome State Fault Refusal :=
  .next (respond (.ok (sinWord s a)) s)

/-- COS (R132). -/
def execCos (a : Angle) (s : State) : Host.Outcome State Fault Refusal :=
  .next (respond (.ok (cosWord s a)) s)

end Sys2Proof.Machine
end

