-- ==== Sys2Proof/Machine/Dispatch.lean ====
section
/-! DEFINITION. One arm per command (30_encoding.md R73). -/

namespace Sys2Proof.Machine

def exec (i : Instr) (s : State) : Host.Outcome State Fault Refusal :=
  match i with
  | .neg a => Sys2Proof.Machine.execNeg a s
  | .add a b => Sys2Proof.Machine.execAdd a b s
  | .sub a b => Sys2Proof.Machine.execSub a b s
  | .mul a b => Sys2Proof.Machine.execMul a b s
  | .div a b => Sys2Proof.Machine.execDiv a b s
  | .rem a b => Sys2Proof.Machine.execRem a b s
  | .cmp a b => Sys2Proof.Machine.execCmp a b s
  | .sin a => Sys2Proof.Machine.execSin a s
  | .cos a => Sys2Proof.Machine.execCos a s
  | .torad a => Sys2Proof.Machine.execTorad a s
  | .fromrad x => Sys2Proof.Machine.execFromrad x s

end Sys2Proof.Machine
end

