-- ==== Sys2Proof/Machine/Edge.lean ====
section
/-! DEFINITION. What one host event does: the clocked step of 10_state.md R38, and the host's other acts. -/

namespace Sys2Proof.Machine

/-- The BAE accepts a command word: it executes the command, or raises ILLEGAL where the word is none
(30_encoding.md R73, R76; ILLEGAL is decided first, 60_exceptions.md R185). -/
def acceptWord (w : CmdWord) (s : State) : Host.Outcome State Fault Refusal :=
  match decode w with
  | .ok i => exec i s
  | .error _ => .next (raiseFailure .illegal s)

/-- One rising edge (10_state.md R38). Until the first edge with `rst` = 1 after power-up the
registers stay unspecified (70_reset_and_hazards.md R212; log 6). -/
def clockEdge (p : PortInputs) (s : State) : Host.Outcome State Fault Refusal :=
  if p.rst then .next (applyReset s)
  else if !s.booted then .next (drawRegisters s)
  else if p.cmdValid then acceptWord p.cmd s
  else .next (idle s)

/-- One host event. -/
def hostEvent (e : HostEvent) (s : State) : Host.Outcome State Fault Refusal :=
  match e with
  | .edge p => clockEdge p s
  | .unstableEdge => .refused .unstableInput
  | .pollValid => .next (hostPoll s)
  | .sample => .next (hostSample s)
  | .clockStopped => .next s
  | .powerOn => .next (powerUp s)

/-- Take the events off the front of the input list: what is left is still to come. -/
def withInputs (s : State) (es : List HostEvent) : State := { s with inputs := es }

/-- A rising edge at which the host presents the command word `w` (10_state.md R23). -/
def present (w : CmdWord) : HostEvent := .edge { rst := false, cmdValid := true, cmd := w }

/-- The event that presents an opcode-table word, the bits above `nbits` zero. -/
def presentTableWord (nbits w : Nat) : HostEvent := present (BitVec.ofNat 48 (w % 2 ^ nbits))

end Sys2Proof.Machine
end

