-- ==== Sys2Proof/Machine/Step.lean ====
section
/-! DEFINITION. One step of the machine: it takes the host's next event. -/

namespace Sys2Proof.Machine

/-- One step. With no event left the clock stands still and every register holds
(60_exceptions.md R195; log 1). -/
def step (s : State) : Host.Outcome State Fault Refusal :=
  match s.inputs with
  | [] => .next s
  | e :: rest => hostEvent e (withInputs s rest)

/-- `s` with the host presenting the word at its next rising edge. The BAE fetches nothing
(10_state.md R22): a program is the stream of words a host presents. Log 2. -/
def State.withFetchWord (s : State) (nbits w : Nat) : State :=
  withInputs s (presentTableWord nbits w :: s.inputs)

end Sys2Proof.Machine
end

