-- ==== Sys2Proof/Machine/Assembly.lean ====
section
/-! DEFINITION. The assembler: literals, commands and pseudo-instructions, their expansion and their words
(30_encoding.md R79 to R81). What the spec leaves open of the spelling is log 14. -/

namespace Sys2Proof.Machine

/-- The operand of FROMRAD as written (R79). -/
inductive RadLiteral where
  /-- `0x` and exactly 8 hexadecimal digits: a raw binary32 pattern. -/
  | pattern (w : Word)
  /-- A decimal real: `digits · 10^exponent`, negated where `neg` is set. -/
  | real (neg : Bool) (digits : Nat) (exponent : Int)
  /-- `inf` or `-inf`. -/
  | inf (neg : Bool)
  /-- `nan`. -/
  | nan
deriving DecidableEq, Repr

/-- The six relations a host tests on a CMP result (R81). -/
inductive Relation where
  | eq | ne | lt | gt | le | ge
deriving DecidableEq, Repr

/-- A line of assembly (R79, R81). Angle literals are numbers: one outside 0..255 is refused. -/
inductive Asm where
  | neg (a : Nat)
  | add (a b : Nat)
  | sub (a b : Nat)
  | mul (a b : Nat)
  | div (a b : Nat)
  | rem (a b : Nat)
  | cmp (a b : Nat)
  | sin (a : Nat)
  | cos (a : Nat)
  | torad (a : Nat)
  | fromrad (x : RadLiteral)
  | angle (a : Nat)
  | polar (a : Nat)
  | relation (r : Relation) (a b : Nat)
  | zero
  | one
deriving DecidableEq, Repr

/-- The binary32 pattern of a FROMRAD operand: a decimal real is rounded with RNE32, `nan` is
`0x7FC00000` (R79, 92_eei_decisions.md D35). -/
def RadLiteral.word : RadLiteral → Word
  | .pattern w => w
  | .real neg digits exponent =>
    withSign neg (rne32 (digits * 10 ^ exponent.toNat * unitsPerOne) (10 ^ (-exponent).toNat))
  | .inf neg => withSign neg 0x7F800000
  | .nan => 0x7FC00000#32

/-- An angle literal the assembler takes: 0..255, not reduced mod 256 (R79). -/
def angleLiteral (a : Nat) : Bool := a ≤ 255

/-- Every angle literal of the line is in 0..255 (R79). -/
def Asm.wellFormed : Asm → Bool
  | .neg a | .sin a | .cos a | .torad a | .angle a | .polar a => angleLiteral a
  | .add a b | .sub a b | .mul a b | .div a b | .rem a b | .cmp a b | .relation _ a b =>
    angleLiteral a && angleLiteral b
  | .fromrad _ | .zero | .one => true

/-- The commands a line stands for: one, or a pseudo-instruction's expansion (R79, R81). -/
def Asm.expand : Asm → List Instr
  | .neg a => [.neg (.ofNat 8 a)]
  | .add a b => [.add (.ofNat 8 a) (.ofNat 8 b)]
  | .sub a b => [.sub (.ofNat 8 a) (.ofNat 8 b)]
  | .mul a b => [.mul (.ofNat 8 a) (.ofNat 8 b)]
  | .div a b => [.div (.ofNat 8 a) (.ofNat 8 b)]
  | .rem a b => [.rem (.ofNat 8 a) (.ofNat 8 b)]
  | .cmp a b => [.cmp (.ofNat 8 a) (.ofNat 8 b)]
  | .sin a => [.sin (.ofNat 8 a)]
  | .cos a => [.cos (.ofNat 8 a)]
  | .torad a => [.torad (.ofNat 8 a)]
  | .fromrad x => [.fromrad x.word]
  | .angle a => [.add (.ofNat 8 a) 0#8]
  | .polar a => [.cos (.ofNat 8 a), .sin (.ofNat 8 a)]
  | .relation _ a b => [.cmp (.ofNat 8 a) (.ofNat 8 b)]
  | .zero => [.add 0#8 0#8]
  | .one => [.add 1#8 0#8]

/-- The words a line assembles to; none where an angle literal is out of range (R79, R80). -/
def assemble (l : Asm) : Option (List CmdWord) :=
  if l.wellFormed then some (l.expand.map encode) else none

/-- The host's test of a CMP result (R81): EQ is bit 0, LT bit 1, GT bit 2. -/
def Relation.test (r : Relation) (result : Word) : Bool :=
  match r with
  | .eq => result.getLsbD 0
  | .ne => !result.getLsbD 0
  | .lt => result.getLsbD 1
  | .gt => result.getLsbD 2
  | .le => !result.getLsbD 2
  | .ge => !result.getLsbD 1

/-! ## Reading a line of text (R79) -/

/-- A blank between tokens. -/
def isBlank (c : Char) : Bool := c = ' ' || c = '\t'

/-- The text without the blanks around it. -/
def trimBlanks (cs : List Char) : List Char :=
  ((cs.dropWhile isBlank).reverse.dropWhile isBlank).reverse

/-- The text cut at every separator. -/
def cutAt (isSeparator : Char → Bool) : List Char → List (List Char)
  | [] => [[]]
  | c :: cs =>
    match cutAt isSeparator cs with
    | [] => [[]]
    | piece :: pieces => if isSeparator c then [] :: piece :: pieces else (c :: piece) :: pieces

/-- The value of a digit in the base, if it is one. -/
def digitValue (base : Nat) (c : Char) : Option Nat :=
  let n := c.toNat
  let v :=
    if '0'.toNat ≤ n ∧ n ≤ '9'.toNat then n - '0'.toNat
    else if 'A'.toNat ≤ n ∧ n ≤ 'F'.toNat then n - 'A'.toNat + 10
    else if 'a'.toNat ≤ n ∧ n ≤ 'f'.toNat then n - 'a'.toNat + 10
    else base
  if v < base then some v else none

/-- The number that one or more digits spell. -/
def readDigits (base : Nat) (cs : List Char) : Option Nat :=
  if cs = [] then none
  else cs.foldl (fun acc c => acc.bind fun n => (digitValue base c).map (n * base + ·)) (some 0)

/-- An angle literal: a decimal integer, or `0x` and hexadecimal digits (R79). -/
def readAngle : List Char → Option Nat
  | '0' :: 'x' :: ds => readDigits 16 ds
  | ds => readDigits 10 ds

/-- An integer with an optional sign: the exponent of a decimal real. -/
def readSigned : List Char → Option Int
  | '-' :: ds => (readDigits 10 ds).map fun n => -(n : Int)
  | '+' :: ds => (readDigits 10 ds).map fun n => (n : Int)
  | ds => (readDigits 10 ds).map fun n => (n : Int)

/-- Digits with at most one point, as their digits and how many stand after the point. -/
def readMantissa (cs : List Char) : Option (Nat × Nat) :=
  match cutAt (· = '.') cs with
  | [whole] => (readDigits 10 whole).map (·, 0)
  | [whole, frac] => (readDigits 10 (whole ++ frac)).map (·, frac.length)
  | _ => none

/-- An unsigned decimal real: it contains a point or an exponent (R79). -/
def readReal (neg : Bool) (cs : List Char) : Option RadLiteral :=
  match cutAt (fun c => c = 'e' || c = 'E') cs with
  | [mantissa] =>
    if mantissa.contains '.' then
      (readMantissa mantissa).map fun m => .real neg m.1 (-(m.2 : Int))
    else none
  | [mantissa, exponent] =>
    (readMantissa mantissa).bind fun m =>
      (readSigned exponent).map fun e => .real neg m.1 (e - m.2)
  | _ => none

/-- The operand of FROMRAD (R79). -/
def readRadLiteral (cs : List Char) : Option RadLiteral :=
  match cs with
  | '0' :: 'x' :: ds =>
    if ds.length = 8 then (readDigits 16 ds).map fun n => .pattern (.ofNat 32 n) else none
  | ['n', 'a', 'n'] => some .nan
  | ['i', 'n', 'f'] => some (.inf false)
  | ['-', 'i', 'n', 'f'] => some (.inf true)
  | '-' :: ds => readReal true ds
  | ds => readReal false ds

/-- The mnemonics with one angle operand. -/
def unaryMnemonics : List (String × (Nat → Asm)) :=
  [("NEG", .neg), ("SIN", .sin), ("COS", .cos), ("TORAD", .torad), ("ANGLE", .angle),
   ("POLAR", .polar)]

/-- The mnemonics with two angle operands. -/
def binaryMnemonics : List (String × (Nat → Nat → Asm)) :=
  [("ADD", .add), ("SUB", .sub), ("MUL", .mul), ("DIV", .div), ("REM", .rem), ("CMP", .cmp),
   ("EQ", .relation .eq), ("NE", .relation .ne), ("LT", .relation .lt), ("GT", .relation .gt),
   ("LE", .relation .le), ("GE", .relation .ge)]

/-- What a mnemonic table holds under a name. -/
def lookupMnemonic {α : Type} (table : List (String × α)) (name : List Char) : Option α :=
  (table.find? fun row => row.1.toList = name).map (·.2)

/-- A line of text read: a mnemonic, blanks, and operands between commas (R79). -/
def readLine (text : List Char) : Option Asm :=
  let line := trimBlanks text
  let name := line.takeWhile fun c => !isBlank c
  match (cutAt (· = ',') (line.drop name.length)).map trimBlanks with
  | [[]] => if name = "ZERO".toList then some .zero else if name = "ONE".toList then some .one else none
  | [a] =>
    if name = "FROMRAD".toList then (readRadLiteral a).map .fromrad
    else (lookupMnemonic unaryMnemonics name).bind fun f => (readAngle a).map f
  | [a, b] =>
    (lookupMnemonic binaryMnemonics name).bind fun f =>
      (readAngle a).bind fun m => (readAngle b).map (f m)
  | _ => none

/-- The words a line of text assembles to; none where the assembler refuses it. -/
def assembleText (text : List Char) : Option (List CmdWord) := (readLine text).bind assemble

end Sys2Proof.Machine
end

