-- ==== Sys2Proof/Safety.lean ====
section
/-! DEFINITION. The terms claims are made in: safe runs, the state invariant, the real value of a binary32
pattern, and the constraints the spec puts on the ROM parameters. -/

namespace Sys2Proof.Machine

/-! ## Runs -/

/-- The read is one that came before the first response (70_reset_and_hazards.md R211). -/
def isEarlyRead : HostRead → Bool
  | .early _ => true
  | _ => false

/-- "no failure recorded", the premise a claim about a run takes: no response failed (60_exceptions.md
R189) and no read came before the first response (93_implementation_defined.md U15, `fault`). -/
def NoFailureRecorded (s : State) : Prop :=
  s.failures = [] ∧ ∀ r ∈ s.samples, isEarlyRead r = false

/-- A run of `k` steps that ends in `t` with no failure recorded. -/
def RunsSafely (k : Nat) (s t : State) : Prop :=
  Host.Core.run Sys2Proof.core k s = .next t ∧ NoFailureRecorded t

/-! ## The invariant -/

/-- What every step keeps. Nothing is asked of the registers of a BAE that has not been reset since
power-up (70_reset_and_hazards.md R212). -/
structure State.Inv (s : State) : Prop where
  /-- STATUS is never the reserved code (10_state.md R25). -/
  statusLegal : s.booted = true → s.status ≠ 0b11#2
  /-- Before the first response the registers hold their reset values (R211). -/
  resetValuesHold : s.booted = true → s.responded = false →
    s.result = 0#32 ∧ s.status = 0b00#2 ∧ s.rspValid = false
  /-- A failure STATUS is the newest entry of the sticky record (60_exceptions.md R189). -/
  failureRecorded : s.booted = true → s.status ≠ 0b00#2 →
    ∃ f, s.failures.getLast? = some f ∧ f.code = s.status
  /-- No response is accepted before the first reset edge (R212). -/
  bootFirst : s.responded = true → s.booted = true

/-! ## Values -/

/-- `val(w)`: the real value of a finite binary32 pattern, by the formula of 00_scope.md R11. -/
def val (w : Word) : ℚ :=
  (if w.getLsbD 31 then -1 else 1) *
    (if (w.extractLsb' 23 8).toNat = 0 then
      (2 : ℚ) ^ (-126 : ℤ) * ((w.extractLsb' 0 23).toNat / 2 ^ 23)
    else
      (2 : ℚ) ^ (((w.extractLsb' 23 8).toNat : ℤ) - 127) *
        (1 + (w.extractLsb' 0 23).toNat / 2 ^ 23))

/-- `w` is a finite binary32 value nearest to the real `r`, and where two are nearest its fraction is
even: `RNE32(r) = w` without overflow (00_scope.md R11). -/
def IsNearest (r : ℝ) (w : Word) : Prop :=
  isFinite w = true ∧
    ∀ v : Word, isFinite v = true →
      |((val w : ℚ) : ℝ) - r| ≤ |((val v : ℚ) : ℝ) - r| ∧
        (val v ≠ val w → |((val v : ℚ) : ℝ) - r| = |((val w : ℚ) : ℝ) - r| →
          (w.extractLsb' 0 23).toNat % 2 = 0)

/-! ## The constraints on the ROM parameters -/

/-- The constraints 10_state.md R28 puts on SIN_ROM, the ≈1e-5 of item 3 taken as 1e-5. -/
structure SinRomConstraints (rom : Vector Word 65) : Prop where
  first : val rom[0] = 0
  last : val rom[64] = 1
  monotone : ∀ i : Nat, (h : i ≤ 62) → val rom[i] ≤ val rom[i + 1]
  unitCircle : ∀ i : Nat, (h : i ≤ 64) →
    |val rom[i] ^ 2 + val rom[64 - i] ^ 2 - 1| ≤ 1 / 100000
  finite : ∀ i : Nat, (h : i ≤ 64) → isFinite rom[i] = true ∧ 0 ≤ val rom[i]

/-- What 10_state.md R31 says of every RAD_ROM entry. -/
structure RadRomConstraints (rom : Vector Word 256) : Prop where
  first : rom[0] = 0x00000000#32
  increasing : ∀ i : Nat, (h : i ≤ 254) → val rom[i] < val rom[i + 1]
  finite : ∀ i : Nat, (h : i ≤ 255) → isFinite rom[i] = true ∧ 0 ≤ val rom[i]

end Sys2Proof.Machine
end

