-- ==== Sys2Proof/Certificates/Slice0/Obligations.lean ====
section
/-! DEFINITION. The statements for the provers. Each docstring names the rule of spec/ it formalises; a
clause that is the model's own choice names its log entry. Throughout, the ports of 10_state.md R23 are
presented through the event list `inputs` (the model's form, log 1), the hypothesis `booted` says that a
reset edge has come since power-up (70_reset_and_hazards.md R212, log 6), and `responded` is the field
behind R211 (log 5). -/

open Sys2Proof Sys2Proof.Machine

/-! ## Terms the statements share -/

namespace Sys2Proof.Claims

/-- SIN_ROM's word at an index in 0..64. -/
def sinRomAt (s : State) (i : Nat) : Word := s.sinRom.toArray.getD i 0

/-- RAD_ROM's word at an index in 0..255. -/
def radRomAt (s : State) (i : Nat) : Word := s.radRom.toArray.getD i 0

/-- `w ^ 0x80000000` where `flip` holds (00_scope.md R11). -/
def flipSign (flip : Bool) (w : Word) : Word := if flip then w ^^^ 0x80000000#32 else w

/-- The wrapped angle of FROMRAD as a word, from the pseudocode of 42_conversion.md R151; a
product that is a NaN counts as not finite (log 10). -/
def fromradResult (s : State) (x : Word) : Word :=
  if isFinite x = true ∧ isFinite (fmul x s.params.radScale) = true then
    BitVec.ofInt 32 (roundToInt s.params.fromradRound (fmul x s.params.radScale) % 256)
  else BitVec.ofNat 32 s.params.nonfiniteAngle.toNat

/-- `Execute(cmd)` of 30_encoding.md R73 on the number `cmd`, written from the pseudocode of the
command rules in mathematical integers, the trigonometry by the selector's control signals of
41_trig.md R130: without the decoder and exec. Only FROMRAD calls operations of the model (fmul,
roundToInt). -/
def execute (s : State) (cmd : Nat) : CmdOutcome :=
  let op := cmd / 2 ^ 44
  let rsv := cmd / 2 ^ 40 % 16
  let b := cmd / 2 ^ 32 % 256
  let a := cmd % 256
  let bit6 : Bool := a / 64 % 2 = 1
  let bit7 : Bool := a / 128 % 2 = 1
  if rsv ≠ 0 then .raised .illegal
  else if op = 1 then .ok (BitVec.ofInt 32 ((0 - (a : Int)) % 256))
  else if op = 2 then .ok (BitVec.ofNat 32 ((a + b) % 256))
  else if op = 3 then .ok (BitVec.ofInt 32 (((a : Int) - b) % 256))
  else if op = 4 then .ok (BitVec.ofNat 32 (a * b % 256))
  else if op = 5 then if b = 0 then .raised .divzero else .ok (BitVec.ofNat 32 (a / b))
  else if op = 6 then if b = 0 then .raised .divzero else .ok (BitVec.ofNat 32 (a - b * (a / b)))
  else if op = 7 then
    .ok (BitVec.ofNat 32
      ((if a > b then 4 else 0) + (if a < b then 2 else 0) + (if a = b then 1 else 0)))
  else if op = 8 then
    .ok (flipSign bit7 (sinRomAt s (if bit6 then 64 - a % 64 else a % 64)))
  else if op = 9 then
    .ok (flipSign (bit7 ^^ bit6) (sinRomAt s (if bit6 then a % 64 else 64 - a % 64)))
  else if op = 10 then .ok (radRomAt s a)
  else if op = 11 then .ok (fromradResult s (BitVec.ofNat 32 cmd))
  else .raised .illegal

/-- RESULT, STATUS and RSP_VALID after a command with the outcome `o` (10_state.md R38). RESULT is not
constrained after a failure (R40). -/
def RegistersHold (t : State) (o : CmdOutcome) : Prop :=
  t.rspValid = true ∧
    match o with
    | .ok r => t.result = r ∧ t.status = 0b00#2
    | .raised .divzero => t.status = 0b01#2
    | .raised .illegal => t.status = 0b10#2

/-- The ROMs and the parameters are the same. -/
def SameTables (s t : State) : Prop :=
  t.sinRom = s.sinRom ∧ t.radRom = s.radRom ∧ t.params = s.params

/-- `t` is `s` after a failing command: STATUS and RSP_VALID set, the record longer by `f`, RESULT any
value (R40), everything else as it was. -/
def FailedWith (f : Failure) (code : StatusCode) (s t : State) : Prop :=
  t.status = code ∧ t.rspValid = true ∧ t.responded = true ∧ t.failures = s.failures ++ [f] ∧
    SameTables s t ∧ t.booted = s.booted ∧ t.inputs = s.inputs ∧ t.samples = s.samples

/-- The angle a command answers, as the low byte of RESULT. -/
def angleOf (i : Instr) (s : State) : Angle :=
  match exec i s with
  | .next t => t.result.setWidth 8
  | _ => 0#8

/-- The word a command answers in RESULT. -/
def wordOf (i : Instr) (s : State) : Option Word :=
  match exec i s with
  | .next t => some t.result
  | _ => none

/-- FROMRAD of what TORAD answers for the angle `b`, in a machine with these parameters and the
reference RAD_ROM. -/
def roundTrip (p : Params) (b : Angle) : Angle :=
  angleOf (.fromrad ((wordOf (.torad b) State.reset).getD 0)) { State.reset with params := p }

/-- An event that lets the response stand: an edge without command and reset, or a stopped clock. -/
def quiet : HostEvent → Bool
  | .edge p => !p.rst && !p.cmdValid
  | .clockStopped => true
  | _ => false

end Sys2Proof.Claims

open Sys2Proof.Claims

/-! ## Reset, the clocked step, the ports -/

/-- From R37 and R210: a rising edge with rst = 1 writes the reset values whatever else is presented, in
every state, drops the command, and leaves the ROMs and parameters alone. RESULT is then no result: a
read right after is a recorded failure without a value (R211; its form is log 5). That the record of
failures, the samples and the counter stay is the model's choice (log 4, log 5, log 3). -/
def Obligations.ResetEdgeWritesResetValues : Prop :=
  ∀ (s : State) (v : Bool) (w : CmdWord) (rest : List HostEvent),
    s.inputs = .edge { rst := true, cmdValid := v, cmd := w } :: rest →
      step s = .next { s with
        result := 0x00000000#32, status := 0b00#2, rspValid := false
        booted := true, responded := false, inputs := rest } ∧
      ∀ rest', rest = .sample :: rest' → ∀ t, step s = .next t →
        step t = .next { t with inputs := rest', samples := t.samples ++ [.early false] }

/-- R37, R210, R20: the state after reset as the spec states it, with the defaults of R7 for all five
parameters, the two ROMs among them. The model's own fields are its choice (log 1, 3, 4, 5, 6, 7). -/
def Obligations.ResetStateAsSpecified : Prop :=
  State.reset.result = 0x00000000#32 ∧ State.reset.status = 0b00#2 ∧ State.reset.rspValid = false ∧
    State.reset.params.radScale = 0x4322568A#32 ∧
    State.reset.params.fromradRound = .halfAwayFromZero ∧ State.reset.params.nonfiniteAngle = 0#8 ∧
    State.reset.sinRom = defaultSinRom ∧ State.reset.radRom = defaultRadRom ∧
    State.reset.failures = [] ∧ State.reset.inputs = []

/-- From R38 and R73: every rising edge is the clocked update with the pure function `Execute`, and never
anything but a next state. `Execute` is written a second time above; its FROMRAD alone calls the model's
fmul and roundToInt, which have statements of their own, and treats a NaN product as log 10 says. Before
the first reset edge R212 leaves the registers open (`booted`, log 6); the samples are log 5's. -/
def Obligations.EveryEdgeIsTheClockedUpdate : Prop :=
  ∀ (s : State) (p : PortInputs) (rest : List HostEvent),
    s.inputs = .edge p :: rest →
      ∃ t, step s = .next t ∧ t.inputs = rest ∧ SameTables s t ∧ t.samples = s.samples ∧
        (p.rst = true → t.result = 0x00000000#32 ∧ t.status = 0b00#2 ∧ t.rspValid = false) ∧
        (s.booted = true → p.rst = false → p.cmdValid = true →
          RegistersHold t (execute s p.cmd.toNat)) ∧
        (s.booted = true → p.rst = false → p.cmdValid = false →
          t.rspValid = false ∧ t.result = s.result ∧ t.status = s.status)

/-- A step runs the decoded command: the event is taken off the input list and exec does the rest; a
word that is no command raises ILLEGAL. -/
def Obligations.StepRunsTheDecodedCommand : Prop :=
  ∀ (s : State) (w : CmdWord) (rest : List HostEvent),
    s.booted = true → s.inputs = .edge { rst := false, cmdValid := true, cmd := w } :: rest →
      (∀ i, decode w = .ok i → step s = exec i { s with inputs := rest }) ∧
      (∀ e, decode w = .error e → ∃ t, step s = .next t ∧
        FailedWith .illegal 0b10#2 { s with inputs := rest } t)

/-- R26: RSP_VALID is 1 exactly after an edge at which a command was accepted. -/
def Obligations.ValidExactlyAfterAcceptance : Prop :=
  ∀ (s t : State) (p : PortInputs) (rest : List HostEvent),
    s.booted = true → s.inputs = .edge p :: rest → step s = .next t →
      (t.rspValid = true ↔ p.rst = false ∧ p.cmdValid = true)

/-- R215: with rst = 0 and cmd_valid = 1 the BAE accepts whatever word stands on the port: it neither
stalls nor refuses. -/
def Obligations.EveryPresentedWordIsAccepted : Prop :=
  ∀ (s : State) (w : CmdWord) (rest : List HostEvent),
    s.booted = true → s.inputs = .edge { rst := false, cmdValid := true, cmd := w } :: rest →
      ∃ t, step s = .next t ∧ t.inputs = rest ∧ t.rspValid = true

/-- From R211: before the first response after reset the registers hold their reset values (in a state
that meets the invariant), and a host's read of all ports is a recorded failure without a value exactly
while no response has come since reset or power-up; otherwise it gets the three registers as they stand.
A read of rsp_valid alone is never a failure. Log 5: the failure's form (93 U15, `fault`), counting from
power-up too, and a read that succeeds in a cycle with RSP_VALID = 0, where R211 has the host read only
with rsp_valid = 1. -/
def Obligations.HostReadFaultsBeforeTheFirstResponse : Prop :=
  ∀ (s : State) (rest : List HostEvent),
    (s.inputs = .sample :: rest →
      (s.Inv → s.booted = true → s.responded = false →
        s.result = 0x00000000#32 ∧ s.status = 0b00#2) ∧
      (s.responded = false → ∃ t, step s = .next t ∧ ¬ NoFailureRecorded t ∧
        t = { s with inputs := rest, samples := s.samples ++ [.early s.rspValid] }) ∧
      (s.responded = true → step s = .next { s with
        inputs := rest
        samples := s.samples ++
          [.response { valid := s.rspValid, result := s.result, status := s.status }] })) ∧
    (s.inputs = .pollValid :: rest → step s = .next { s with
      inputs := rest, samples := s.samples ++ [.valid s.rspValid] })

/-- R39: the output ports are the registers, and no input reaches them but through the registers: they
are the same whatever the host presents next, and no step but a rising edge and power-up changes what
they show. -/
def Obligations.OutputPortsAreTheRegisters : Prop :=
  (∀ (s : State) (es : List HostEvent),
    (responsePorts s).result = s.result ∧ (responsePorts s).status = s.status ∧
    (responsePorts s).valid = s.rspValid ∧
    responsePorts { s with inputs := es } = responsePorts s) ∧
  ∀ s t : State, step s = .next t → (∀ p, s.inputs.head? ≠ some (.edge p)) →
    s.inputs.head? ≠ some .powerOn → responsePorts t = responsePorts s

/-- R195: while the clock is stopped everything holds, and the next event goes on from there. -/
def Obligations.StoppedClockHoldsEverything : Prop :=
  ∀ (s : State) (rest : List HostEvent), s.inputs = .clockStopped :: rest →
    step s = .next { s with inputs := rest }

/-- R216: the model has no step for an edge whose inputs are not stable. -/
def Obligations.UnstableEdgeHasNoStep : Prop :=
  ∀ (s : State) (rest : List HostEvent), s.inputs = .unstableEdge :: rest →
    step s = .refused .unstableInput

/-- R212, R213: power-up leaves the ROMs valid and the records alone, and whatever edges without reset
come before it, one edge with rst = 1 puts the registers at their reset values. -/
def Obligations.PowerUpThenOneResetEdgeSuffices : Prop :=
  ∀ (s : State) (es : List PortInputs) (r : PortInputs) (rest : List HostEvent),
    (∀ p ∈ es, p.rst = false) → r.rst = true →
    s.inputs = .powerOn :: (es.map .edge ++ .edge r :: rest) →
      ∃ t, Host.Core.run core (es.length + 2) s = .next t ∧ t.inputs = rest ∧ SameTables s t ∧
        t.result = 0x00000000#32 ∧ t.status = 0b00#2 ∧ t.rspValid = false ∧ t.booted = true ∧
        t.responded = false ∧ t.failures = s.failures ∧ t.samples = s.samples

/-! ## Encoding -/

/-- Words written out from the encoding of R70 and R72 decode to the commands they stand for. -/
def Obligations.WrittenWordsDecode : Prop :=
  decode 0x100000000001#48 = .ok (.neg 1#8) ∧
  decode 0x2064000000C8#48 = .ok (.add 200#8 100#8) ∧
  decode 0x7001000000FF#48 = .ok (.cmp 255#8 1#8) ∧
  decode 0x8000000000FF#48 = .ok (.sin 255#8) ∧
  decode 0xA00000000040#48 = .ok (.torad 64#8) ∧
  decode 0xB0FF3FC90FDB#48 = .ok (.fromrad 0x3FC90FDB#32) ∧
  decode 0x000000000000#48 = .error (.reservedOpcode 0#4) ∧
  decode 0x510000000000#48 = .error (.reservedField 1#4)

/-- Decode and encode agree on every command and every operand (R70 to R73, R80). -/
def Obligations.DecodeOfEncodeIsTheCommand : Prop :=
  ∀ i : Instr, i.wellFormed = true → decode (encode i) = .ok i

/-- Every legal word decodes to a command whose own word agrees with it on OP, RSV and the operands it
reads, and every other word is rejected by the name of its reserved field. The legal words are those of
R70, R72 and R76: that words with B[7:4] ≠ 0 decode, against the mask of R77, is log 11 (DEDUCED). -/
def Obligations.EveryWordDecodesOneWay : Prop :=
  ∀ w : CmdWord,
    (wellFormedWord w = true → ∃ i, decode w = .ok i ∧
      encode i = w &&& meaningfulBits i) ∧
    (w.toNat / 2 ^ 40 % 16 ≠ 0 → decode w = .error (.reservedField (rsvField w))) ∧
    (w.toNat / 2 ^ 40 % 16 = 0 → wellFormedWord w = false →
      decode w = .error (.reservedOpcode (opField w)))

/-- R80: a command's word is `OP << 44 | b << 32 | A`, RSV and the unread B zero, with its examples. -/
def Obligations.AssembledWordIsTheFieldSum : Prop :=
  (∀ a b : Angle,
    (encode (.neg a)).toNat = 1 * 2 ^ 44 + a.toNat ∧
    (encode (.add a b)).toNat = 2 * 2 ^ 44 + b.toNat * 2 ^ 32 + a.toNat ∧
    (encode (.sub a b)).toNat = 3 * 2 ^ 44 + b.toNat * 2 ^ 32 + a.toNat ∧
    (encode (.mul a b)).toNat = 4 * 2 ^ 44 + b.toNat * 2 ^ 32 + a.toNat ∧
    (encode (.div a b)).toNat = 5 * 2 ^ 44 + b.toNat * 2 ^ 32 + a.toNat ∧
    (encode (.rem a b)).toNat = 6 * 2 ^ 44 + b.toNat * 2 ^ 32 + a.toNat ∧
    (encode (.cmp a b)).toNat = 7 * 2 ^ 44 + b.toNat * 2 ^ 32 + a.toNat ∧
    (encode (.sin a)).toNat = 8 * 2 ^ 44 + a.toNat ∧
    (encode (.cos a)).toNat = 9 * 2 ^ 44 + a.toNat ∧
    (encode (.torad a)).toNat = 10 * 2 ^ 44 + a.toNat) ∧
  (∀ x : Word, (encode (.fromrad x)).toNat = 11 * 2 ^ 44 + x.toNat) ∧
  encode (.add 200#8 100#8) = 0x2064000000C8#48 ∧ encode (.sin 64#8) = 0x800000000040#48 ∧
  encode (.fromrad 0x3FC90FDB#32) = 0xB0003FC90FDB#48

/-- R74: the bits an opcode ignores have no effect on the step at all: two words with the same OP, RSV
and read operands are one command. -/
def Obligations.IgnoredBitsHaveNoEffect : Prop :=
  ∀ (s : State) (v w : CmdWord) (rest : List HostEvent),
    v.toNat / 2 ^ 40 = w.toNat / 2 ^ 40 →
    v.toNat % 2 ^ 8 = w.toNat % 2 ^ 8 →
    (v.toNat / 2 ^ 44 = 11 → v.toNat % 2 ^ 32 = w.toNat % 2 ^ 32) →
    (v.toNat / 2 ^ 44 ∈ [2, 3, 4, 5, 6, 7] →
      v.toNat / 2 ^ 32 % 256 = w.toNat / 2 ^ 32 % 256) →
    step { s with inputs := .edge { rst := false, cmdValid := true, cmd := v } :: rest } =
      step { s with inputs := .edge { rst := false, cmdValid := true, cmd := w } :: rest }

/-- R76, R182: a word raises ILLEGAL when, and only when, RSV ≠ 0 or OP is 0x0 or 0xC to 0xF. -/
def Obligations.IllegalExactlyOnReservedEncodings : Prop :=
  ∀ (s t : State) (w : CmdWord) (rest : List HostEvent),
    s.booted = true → s.inputs = .edge { rst := false, cmdValid := true, cmd := w } :: rest →
    step s = .next t →
      (t.status = 0b10#2 ↔
        w.toNat / 2 ^ 40 % 16 ≠ 0 ∨ w.toNat / 2 ^ 44 ∈ [0x0, 0xC, 0xD, 0xE, 0xF])

/-- R181: DIVZERO is raised by DIV and REM with b = 0, whatever a is, and by no other word, and it
records nothing beyond its code. -/
def Obligations.DivzeroExactlyOnTheZeroDivisor : Prop :=
  ∀ (s : State) (w : CmdWord) (rest : List HostEvent),
    s.booted = true → s.inputs = .edge { rst := false, cmdValid := true, cmd := w } :: rest →
      ∃ t, step s = .next t ∧
        (t.status = 0b01#2 ↔
          w.toNat / 2 ^ 40 % 16 = 0 ∧ w.toNat / 2 ^ 44 ∈ [0x5, 0x6] ∧
            w.toNat / 2 ^ 32 % 256 = 0) ∧
        (t.status = 0b01#2 → FailedWith .divzero 0b01#2 { s with inputs := rest } t)

/-- ILLEGAL is decided before DIVZERO (R185): a DIV or REM word with RSV ≠ 0 and b = 0 raises
ILLEGAL. -/
def Obligations.IllegalIsDecidedBeforeDivzero : Prop :=
  ∀ (s t : State) (w : CmdWord) (rest : List HostEvent),
    s.booted = true → s.inputs = .edge { rst := false, cmdValid := true, cmd := w } :: rest →
    w.toNat / 2 ^ 44 ∈ [0x5, 0x6] → w.toNat / 2 ^ 32 % 256 = 0 → w.toNat / 2 ^ 40 % 16 ≠ 0 →
    step s = .next t → t.status = 0b10#2

/-! ## Angle arithmetic -/

/-- R101: NEG. Every word with OP = 1 and RSV = 0 is NEG of its low byte, and NEG writes
`zext_32((0 - a) mod 256)`, STATUS OK and RSP_VALID, and nothing else. -/
def Obligations.NegIsNegationModulo256 : Prop :=
  (∀ (a : Angle) (s : State), exec (.neg a) s = .next { s with
    result := BitVec.ofInt 32 ((0 - (a.toNat : Int)) % 256)
    status := 0b00#2, rspValid := true, responded := true }) ∧
  ∀ w : CmdWord, w.toNat / 2 ^ 40 = 0x10 → decode w = .ok (.neg (BitVec.ofNat 8 w.toNat))

/-- R102: ADD. -/
def Obligations.AddIsAdditionModulo256 : Prop :=
  (∀ (a b : Angle) (s : State), exec (.add a b) s = .next { s with
    result := BitVec.ofNat 32 ((a.toNat + b.toNat) % 256)
    status := 0b00#2, rspValid := true, responded := true }) ∧
  ∀ w : CmdWord, w.toNat / 2 ^ 40 = 0x20 →
    decode w = .ok (.add (BitVec.ofNat 8 w.toNat) (BitVec.ofNat 8 (w.toNat / 2 ^ 32)))

/-- R103: SUB. -/
def Obligations.SubIsSubtractionModulo256 : Prop :=
  (∀ (a b : Angle) (s : State), exec (.sub a b) s = .next { s with
    result := BitVec.ofInt 32 (((a.toNat : Int) - b.toNat) % 256)
    status := 0b00#2, rspValid := true, responded := true }) ∧
  ∀ w : CmdWord, w.toNat / 2 ^ 40 = 0x30 →
    decode w = .ok (.sub (BitVec.ofNat 8 w.toNat) (BitVec.ofNat 8 (w.toNat / 2 ^ 32)))

/-- R104: MUL. -/
def Obligations.MulIsMultiplicationModulo256 : Prop :=
  (∀ (a b : Angle) (s : State), exec (.mul a b) s = .next { s with
    result := BitVec.ofNat 32 (a.toNat * b.toNat % 256)
    status := 0b00#2, rspValid := true, responded := true }) ∧
  ∀ w : CmdWord, w.toNat / 2 ^ 40 = 0x40 →
    decode w = .ok (.mul (BitVec.ofNat 8 w.toNat) (BitVec.ofNat 8 (w.toNat / 2 ^ 32)))

/-- R105: DIV. The floor of the quotient for b ≠ 0; for b = 0, DIVZERO whatever a is, RESULT any
value. -/
def Obligations.DivIsTheUnsignedQuotient : Prop :=
  (∀ (a b : Angle) (s : State), b.toNat ≠ 0 → exec (.div a b) s = .next { s with
    result := BitVec.ofNat 32 (a.toNat / b.toNat)
    status := 0b00#2, rspValid := true, responded := true }) ∧
  (∀ (a : Angle) (s : State), ∃ t, exec (.div a 0#8) s = .next t ∧
    FailedWith .divzero 0b01#2 s t) ∧
  ∀ w : CmdWord, w.toNat / 2 ^ 40 = 0x50 →
    decode w = .ok (.div (BitVec.ofNat 8 w.toNat) (BitVec.ofNat 8 (w.toNat / 2 ^ 32)))

/-- R106: REM. `a - b · floor(a / b)` for b ≠ 0; for b = 0, DIVZERO whatever a is, RESULT any value.
For every b ≠ 0, DIV(a,b)·b + REM(a,b) = a and REM(a,b) < b. -/
def Obligations.RemIsTheUnsignedRemainder : Prop :=
  (∀ (a b : Angle) (s : State), b.toNat ≠ 0 → exec (.rem a b) s = .next { s with
    result := BitVec.ofNat 32 (a.toNat - b.toNat * (a.toNat / b.toNat))
    status := 0b00#2, rspValid := true, responded := true }) ∧
  (∀ (a : Angle) (s : State), ∃ t, exec (.rem a 0#8) s = .next t ∧
    FailedWith .divzero 0b01#2 s t) ∧
  (∀ (a b : Angle) (s : State), b.toNat ≠ 0 → ∃ q r,
    wordOf (.div a b) s = some q ∧ wordOf (.rem a b) s = some r ∧
      q.toNat * b.toNat + r.toNat = a.toNat ∧ r.toNat < b.toNat) ∧
  ∀ w : CmdWord, w.toNat / 2 ^ 40 = 0x60 →
    decode w = .ok (.rem (BitVec.ofNat 8 w.toNat) (BitVec.ofNat 8 (w.toNat / 2 ^ 32)))

/-- R107: CMP. One-hot unsigned ordering. -/
def Obligations.CmpIsTheOneHotUnsignedOrdering : Prop :=
  (∀ (a b : Angle) (s : State), exec (.cmp a b) s = .next { s with
    result := if a.toNat = b.toNat then 0x00000001#32
      else if a.toNat < b.toNat then 0x00000002#32 else 0x00000004#32
    status := 0b00#2, rspValid := true, responded := true }) ∧
  ∀ w : CmdWord, w.toNat / 2 ^ 40 = 0x70 →
    decode w = .ok (.cmp (BitVec.ofNat 8 w.toNat) (BitVec.ofNat 8 (w.toNat / 2 ^ 32)))

/-- R108: the laws of the ring Z/256Z, of DIV and REM, and of the order CMP gives, on what the commands
answer. -/
def Obligations.AngleCommandsObeyTheRingLaws : Prop :=
  ∀ (a b c : Angle) (s : State),
    let add x y := angleOf (.add x y) s
    let sub x y := angleOf (.sub x y) s
    let mul x y := angleOf (.mul x y) s
    let neg x := angleOf (.neg x) s
    let quo x y := angleOf (.div x y) s
    let rem x y := angleOf (.rem x y) s
    let cmp x y := wordOf (.cmp x y) s
    (add a b = add b a ∧ add (add a b) c = add a (add b c) ∧ add a 0#8 = a ∧
      mul a b = mul b a ∧ mul (mul a b) c = mul a (mul b c) ∧ mul a 1#8 = a ∧
      mul a (add b c) = add (mul a b) (mul a c)) ∧
    (add a (neg a) = 0#8 ∧ neg a = BitVec.ofNat 8 ((256 - a.toNat) % 256)) ∧
    (sub a b = add a (neg b) ∧ neg a = sub 0#8 a ∧ neg (neg a) = a) ∧
    (mul a 255#8 = neg a ∧
      ((mul a b).toNat % 2 = 1 ↔ a.toNat % 2 = 1 ∧ b.toNat % 2 = 1) ∧
      ∀ k < 8, (mul a (BitVec.ofNat 8 (2 ^ k))).toNat % 2 ^ k = 0) ∧
    (b ≠ 0#8 → (quo a b).toNat * b.toNat + (rem a b).toNat = a.toNat ∧
      (rem a b).toNat < b.toNat) ∧
    ((cmp a b = some 1#32 ∨ cmp a b = some 2#32 ∨ cmp a b = some 4#32) ∧
      (cmp a b = some 1#32 ↔ a = b) ∧ (cmp a b = some 2#32 ↔ cmp b a = some 4#32) ∧
      (cmp a b = some 2#32 → cmp b c = some 2#32 → cmp a c = some 2#32) ∧
      cmp 0#8 255#8 = some 2#32 ∧ cmp (add 0#8 1#8) (add 255#8 1#8) = some 4#32)

/-- R109: the same angle in both fields. -/
def Obligations.SameOperandInBothFields : Prop :=
  ∀ (a : Angle) (s : State),
    (angleOf (.add a a) s).toNat = 2 * a.toNat % 256 ∧ wordOf (.sub a a) s = some 0#32 ∧
    (angleOf (.mul a a) s).toNat = a.toNat ^ 2 % 256 ∧
    (a ≠ 0#8 → wordOf (.div a a) s = some 1#32 ∧ wordOf (.rem a a) s = some 0#32) ∧
    (∃ t, exec (.div 0#8 0#8) s = .next t ∧ t.status = 0b01#2) ∧
    (∃ t, exec (.rem 0#8 0#8) s = .next t ∧ t.status = 0b01#2) ∧
    wordOf (.cmp a a) s = some 1#32

/-! ## Sine and cosine -/

/-- R131: SIN by quadrant, with its corner values under the reference default ROM. -/
def Obligations.SinReadsTheQuarterWaveTable : Prop :=
  (∀ (a : Angle) (s : State), exec (.sin a) s = .next { s with
    result :=
      if a.toNat / 64 = 0 then sinRomAt s (a.toNat % 64)
      else if a.toNat / 64 = 1 then sinRomAt s (64 - a.toNat % 64)
      else if a.toNat / 64 = 2 then sinRomAt s (a.toNat % 64) ^^^ 0x80000000#32
      else sinRomAt s (64 - a.toNat % 64) ^^^ 0x80000000#32
    status := 0b00#2, rspValid := true, responded := true }) ∧
  (∀ w : CmdWord, w.toNat / 2 ^ 40 = 0x80 → decode w = .ok (.sin (BitVec.ofNat 8 w.toNat))) ∧
  ∀ s : State, s.sinRom = defaultSinRom →
    wordOf (.sin 0#8) s = some 0x00000000#32 ∧ wordOf (.sin 32#8) s = some 0x3F3504F3#32 ∧
    wordOf (.sin 64#8) s = some 0x3F800000#32 ∧ wordOf (.sin 128#8) s = some 0x80000000#32 ∧
    wordOf (.sin 192#8) s = some 0xBF800000#32 ∧ wordOf (.sin 255#8) s = some 0xBCC90AB0#32

/-- R132: COS by quadrant, the full byte in quadrant 0, with its corner values under the reference
default ROM; the full-byte index is the reflected one there. -/
def Obligations.CosReadsTheQuarterWaveTable : Prop :=
  (∀ (a : Angle) (s : State), exec (.cos a) s = .next { s with
    result :=
      if a.toNat / 64 = 0 then sinRomAt s (64 - a.toNat)
      else if a.toNat / 64 = 1 then sinRomAt s (a.toNat % 64) ^^^ 0x80000000#32
      else if a.toNat / 64 = 2 then sinRomAt s (64 - a.toNat % 64) ^^^ 0x80000000#32
      else sinRomAt s (a.toNat % 64)
    status := 0b00#2, rspValid := true, responded := true }) ∧
  (∀ a : Angle, a.toNat / 64 = 0 → 64 - a.toNat = 64 - a.toNat % 64) ∧
  (∀ w : CmdWord, w.toNat / 2 ^ 40 = 0x90 → decode w = .ok (.cos (BitVec.ofNat 8 w.toNat))) ∧
  ∀ s : State, s.sinRom = defaultSinRom →
    wordOf (.cos 0#8) s = some 0x3F800000#32 ∧ wordOf (.cos 32#8) s = some 0x3F3504F3#32 ∧
    wordOf (.cos 63#8) s = some 0x3CC90AB0#32 ∧ wordOf (.cos 64#8) s = some 0x80000000#32 ∧
    wordOf (.cos 128#8) s = some 0xBF800000#32 ∧ wordOf (.cos 192#8) s = some 0x00000000#32

/-- R130: the selector's control signals. SIN reflects when a[6] = 1 and negates when a[7] = 1; COS
reflects when a[6] = 0 and negates when a[7] ^ a[6] = 1. The reflected index is in 1..64, the direct
one in 0..63. -/
def Obligations.TrigFollowsTheSelectorSignals : Prop :=
  ∀ (a : Angle) (s : State),
    let low6 := a.toNat % 64
    let a6 := a.getLsbD 6
    let a7 := a.getLsbD 7
    wordOf (.sin a) s = some (flipSign a7 (sinRomAt s (if a6 then 64 - low6 else low6))) ∧
    wordOf (.cos a) s = some (flipSign (a7 ^^ a6) (sinRomAt s (if a6 then low6 else 64 - low6))) ∧
    1 ≤ 64 - low6 ∧ 64 - low6 ≤ 64 ∧ low6 ≤ 63

/-- R133: the symmetry laws, bit for bit, for every angle and every SIN_ROM. At the angles each law
excepts the two sides differ in the sign bit. -/
def Obligations.TrigSymmetriesHoldForEveryRom : Prop :=
  ∀ (a : Angle) (s : State),
    let sin (k : Int) := wordOf (.sin (BitVec.ofInt 8 k)) s
    let cos (k : Int) := wordOf (.cos (BitVec.ofInt 8 k)) s
    let n : Int := a.toNat
    cos n = sin ((n + 64) % 256) ∧
    (a ≠ 0#8 → a ≠ 128#8 → sin ((256 - n) % 256) = (sin n).map (flipSign true)) ∧
    (a = 0#8 ∨ a = 128#8 → sin ((256 - n) % 256) ≠ (sin n).map (flipSign true)) ∧
    (a ≠ 64#8 → a ≠ 192#8 → cos ((256 - n) % 256) = cos n) ∧
    (a = 64#8 ∨ a = 192#8 → cos ((256 - n) % 256) = (cos n).map (flipSign true)) ∧
    (a ≠ 0#8 → a ≠ 128#8 → sin ((128 - n) % 256) = sin n) ∧
    (a = 0#8 ∨ a = 128#8 → sin ((128 - n) % 256) = (sin n).map (flipSign true)) ∧
    (∃ i, i ≤ 64 ∧ (sin n = some (sinRomAt s i) ∨ sin n = some (flipSign true (sinRomAt s i)))) ∧
    (∃ i, i ≤ 64 ∧ (cos n = some (sinRomAt s i) ∨ cos n = some (flipSign true (sinRomAt s i)))) ∧
    ((sin n).map (· &&& 0x7FFFFFFF#32) = some (sinRomAt s (a.toNat % 64) &&& 0x7FFFFFFF#32) ∨
      (sin n).map (· &&& 0x7FFFFFFF#32) = some (sinRomAt s (64 - a.toNat % 64) &&& 0x7FFFFFFF#32))

/-- R134: with any SIN_ROM whose last entry is 1.0 (all of R28 that is needed), whose first entry is +0.0
and that has no other zero, SIN and COS return a zero for exactly four (command, angle) pairs, with the
signs stated, and ±1.0 for four; R28 does not forbid ±1.0 elsewhere. -/
def Obligations.TrigZerosAndOnesAreExact : Prop :=
  ∀ s : State, val (sinRomAt s 64) = 1 → sinRomAt s 0 = 0x00000000#32 →
    (∀ i, 1 ≤ i → i ≤ 64 → val (sinRomAt s i) ≠ 0) →
    (∀ (a : Angle) (w : Word), wordOf (.sin a) s = some w → (val w = 0 ↔ a = 0#8 ∨ a = 128#8)) ∧
    (∀ (a : Angle) (w : Word), wordOf (.cos a) s = some w → (val w = 0 ↔ a = 64#8 ∨ a = 192#8)) ∧
    wordOf (.sin 0#8) s = some 0x00000000#32 ∧ wordOf (.sin 128#8) s = some 0x80000000#32 ∧
    wordOf (.cos 64#8) s = some 0x80000000#32 ∧ wordOf (.cos 192#8) s = some 0x00000000#32 ∧
    wordOf (.sin 64#8) s = some 0x3F800000#32 ∧ wordOf (.sin 192#8) s = some 0xBF800000#32 ∧
    wordOf (.cos 0#8) s = some 0x3F800000#32 ∧ wordOf (.cos 128#8) s = some 0xBF800000#32

/-- For every SIN_ROM that meets R28, sin² + cos² is within 1e-5 of 1 at every angle, and SIN is
monotone over 0..63: what the source's §8 asks. The bound 1e-5 is the spec's "about". -/
def Obligations.TrigMeetsTheSourceProperties : Prop :=
  ∀ s : State, SinRomConstraints s.sinRom →
    (∀ (a : Angle) (x y : Word), wordOf (.sin a) s = some x → wordOf (.cos a) s = some y →
      |val x ^ 2 + val y ^ 2 - 1| ≤ 1 / 100000) ∧
    (∀ (a b : Angle) (x y : Word), a.toNat < b.toNat → b.toNat ≤ 63 →
      wordOf (.sin a) s = some x → wordOf (.sin b) s = some y → val x ≤ val y)

/-! ## The ROMs -/

/-- The reference default SIN_ROM meets every constraint of R28 and is strictly increasing. -/
def Obligations.DefaultSinRomMeetsItsConstraints : Prop :=
  SinRomConstraints defaultSinRom ∧ defaultSinRom[0] = 0x00000000#32 ∧
    (∀ i : Nat, (h : i ≤ 63) → val defaultSinRom[i] < val defaultSinRom[i + 1]) ∧
    ∀ i : Nat, (h : i ≤ 64) →
      |val defaultSinRom[i] ^ 2 + val defaultSinRom[64 - i] ^ 2 - 1| ≤ 58 / 1000000000

/-- R27: every entry of the reference default SIN_ROM is the binary32 value nearest to sin(i·π/128). -/
def Obligations.DefaultSinRomIsCorrectlyRounded : Prop :=
  ∀ i : Nat, (h : i ≤ 64) → IsNearest (Real.sin ((i : ℝ) * Real.pi / 128)) defaultSinRom[i]

/-- The reference default RAD_ROM meets R31, and every entry is the binary32 value nearest to i·π/128
(R30); the default RAD_SCALE is the binary32 value nearest to 510/π (R32). -/
def Obligations.DefaultRadRomIsCorrectlyRounded : Prop :=
  RadRomConstraints defaultRadRom ∧
    (∀ i : Nat, (h : i < 256) → IsNearest ((i : ℝ) * Real.pi / 128) defaultRadRom[i]) ∧
    IsNearest (510 / Real.pi) 0x4322568A#32

/-- R29 (and the same for RAD_ROM and the parameters): nothing writes them, whatever the event. -/
def Obligations.NothingWritesTheRoms : Prop :=
  ∀ s t : State, step s = .next t → SameTables s t

/-- SIN and COS read exactly one SIN_ROM word, TORAD exactly one RAD_ROM word, and the other commands
none: what no read word can change does not change the response. -/
def Obligations.CommandsReadAtMostOneRomWord : Prop :=
  (∀ a : Angle, ∃ i : Fin 65, ∀ s t : State, s.sinRom[i] = t.sinRom[i] →
    wordOf (.sin a) s = wordOf (.sin a) t) ∧
  (∀ a : Angle, ∃ i : Fin 65, ∀ s t : State, s.sinRom[i] = t.sinRom[i] →
    wordOf (.cos a) s = wordOf (.cos a) t) ∧
  (∀ (a : Angle) (s t : State), s.radRom[a.toNat] = t.radRom[a.toNat] →
    wordOf (.torad a) s = wordOf (.torad a) t) ∧
  ∀ (i : Instr) (s s' t t' : State),
    (∀ a, i ≠ .sin a ∧ i ≠ .cos a ∧ i ≠ .torad a) → s.params = s'.params →
    exec i s = .next t → exec i s' = .next t' →
      t.status = t'.status ∧ (t.status = 0b00#2 → t.result = t'.result)

/-! ## Conversions -/

/-- TORAD reads the RAD_ROM word of the whole angle byte; corner values under the reference default. -/
def Obligations.ToradIsTheTableLookup : Prop :=
  (∀ (a : Angle) (s : State), exec (.torad a) s = .next { s with
    result := radRomAt s a.toNat, status := 0b00#2, rspValid := true, responded := true }) ∧
  (∀ w : CmdWord, w.toNat / 2 ^ 40 = 0xA0 → decode w = .ok (.torad (BitVec.ofNat 8 w.toNat))) ∧
  ∀ s : State, s.radRom = defaultRadRom →
    wordOf (.torad 0#8) s = some 0x00000000#32 ∧ wordOf (.torad 64#8) s = some 0x3FC90FDB#32 ∧
    wordOf (.torad 128#8) s = some 0x40490FDB#32 ∧ wordOf (.torad 255#8) s = some 0x40C846CB#32

/-- From R151: FROMRAD. NONFINITE_ANGLE where x or the product is not finite, otherwise the product rounded
by FROMRAD_ROUND and wrapped mod 256; all 32 bits of x are read and B is ignored; the example under the
defaults. R151 says ±infinity of the product; that a NaN product, which only a RAD_SCALE that is not
finite can give, is treated alike is the model's choice (log 10). -/
def Obligations.FromradMultipliesRoundsAndWraps : Prop :=
  (∀ (x : Word) (s : State), exec (.fromrad x) s = .next { s with
    result := fromradResult s x, status := 0b00#2, rspValid := true, responded := true }) ∧
  (∀ w : CmdWord, w.toNat / 2 ^ 40 = 0xB0 → decode w = .ok (.fromrad (BitVec.ofNat 32 w.toNat))) ∧
  ∀ s : State, s.params = defaultParams →
    fmul 0x3F800000#32 s.params.radScale = 0x4322568A#32 ∧
    wordOf (.fromrad 0x3F800000#32) s = some 0x000000A2#32

/-- From R11: fmul is the correctly rounded product of finite operands: nearest, ties to even, infinite
exactly from 2^128 - 2^103 on, its sign the XOR of the operands' signs; and fneg flips the sign bit and
negates the value. R11 gives the sign of an exact zero product; that of a non-zero product which
underflows to zero is log 9 (PRESUMED, IEEE 754). -/
def Obligations.ProductIsCorrectlyRounded : Prop :=
  (∀ a b : Word, isFinite a = true → isFinite b = true →
    (|val a * val b| < 2 ^ 128 - 2 ^ 103 → IsNearest ((val a * val b : ℚ) : ℝ) (fmul a b)) ∧
    (2 ^ 128 - 2 ^ 103 ≤ |val a * val b| → fmul a b &&& 0x7FFFFFFF#32 = 0x7F800000#32) ∧
    (fmul a b).getLsbD 31 = (a.getLsbD 31 ^^ b.getLsbD 31)) ∧
  ∀ w : Word, fneg w = w ^^^ 0x80000000#32 ∧ val (fneg w) = -val w

/-- R12: the three roundings of a finite value to an integer. -/
def Obligations.RoundingToIntegerAsNamed : Prop :=
  ∀ w : Word, isFinite w = true →
    (|(roundToInt .halfAwayFromZero w : ℚ) - val w| ≤ 1 / 2 ∧
      (|(roundToInt .halfAwayFromZero w : ℚ) - val w| = 1 / 2 →
        |val w| < |(roundToInt .halfAwayFromZero w : ℚ)|)) ∧
    (|(roundToInt .halfEven w : ℚ) - val w| ≤ 1 / 2 ∧
      (|(roundToInt .halfEven w : ℚ) - val w| = 1 / 2 → roundToInt .halfEven w % 2 = 0)) ∧
    (|(roundToInt .towardZero w : ℚ)| ≤ |val w| ∧
      |val w| < |(roundToInt .towardZero w : ℚ)| + 1 ∧
      0 ≤ (roundToInt .towardZero w : ℚ) * val w)

/-- R152: NaNs and infinities, and products that overflow, give NONFINITE_ANGLE with STATUS OK. With
the default scale the product overflows exactly from |x| = 0x7BC9D9B4 on, where the exact product is an
integer multiple of 256. The vectors' corner note differs: the rule wins (log 13). -/
def Obligations.NonfiniteProductsGiveTheParameter : Prop :=
  (∀ (x : Word) (s : State),
    (isFinite x = false ∨ fmul x s.params.radScale &&& 0x7FFFFFFF#32 = 0x7F800000#32) →
    exec (.fromrad x) s = .next { s with
      result := BitVec.ofNat 32 s.params.nonfiniteAngle.toNat
      status := 0b00#2, rspValid := true, responded := true }) ∧
  defaultParams.nonfiniteAngle = 0#8 ∧
  ∀ x : Word, isFinite x = true →
    (isFinite (fmul x defaultParams.radScale) = false ↔ 0x7BC9D9B4 ≤ x.toNat % 2 ^ 31) ∧
    (0x7BC9D9B4 ≤ x.toNat % 2 ^ 31 → ∃ k : ℤ, val x * val defaultParams.radScale = 256 * k)

/-- R153: zeros and subnormals give angle 0 under each rounding mode with the default scale, as does
every x whose product is subnormal, so flushing changes nothing; every x with |val(p)| < 0.5 gives 0
under the defaults, and 0x3B49D9B4 is the smallest positive x that gives 1, its product exactly 0.5. -/
def Obligations.TinyRadiansGiveAngleZero : Prop :=
  (∀ (m : RoundMode) (x : Word),
    let p : Params := { defaultParams with fromradRound := m }
    ((x.extractLsb' 23 8).toNat = 0 →
      |val (fmul x p.radScale)| ≤ 191 / 10 ^ 38 ∧ fromradAngle p x = 0#8) ∧
    (isFinite x = true → ((fmul x p.radScale).extractLsb' 23 8).toNat = 0 →
      fromradAngle p x = 0#8)) ∧
  (∀ x : Word, isFinite x = true → |val (fmul x defaultParams.radScale)| < 1 / 2 →
    fromradAngle defaultParams x = 0#8) ∧
  val (fmul 0x3B49D9B4#32 defaultParams.radScale) = 1 / 2 ∧
  fromradAngle defaultParams 0x3B49D9B4#32 = 1#8 ∧
  ∀ x : Word, x.toNat < 0x3B49D9B4 → fromradAngle defaultParams x = 0#8

/-- R154: from 2^24 on the product is an integer and rounding does nothing; from 2^31 on it is a
multiple of 256 and the result 0, which with the default scale holds from |x| = 0x4B49D9B4 on; a
negative product wraps. -/
def Obligations.LargeProductsWrapToZero : Prop :=
  (∀ (p : Word) (m : RoundMode), isFinite p = true →
    (2 ^ 24 ≤ |val p| → (roundToInt m p : ℚ) = val p) ∧
    (2 ^ 31 ≤ |val p| → ∃ k : ℤ, val p = 256 * k)) ∧
  (∀ (x : Word) (q : Params), isFinite x = true → isFinite (fmul x q.radScale) = true →
    2 ^ 31 ≤ |val (fmul x q.radScale)| → fromradAngle q x = 0#8) ∧
  (∀ x : Word, isFinite x = true → 0x4B49D9B4 ≤ x.toNat % 2 ^ 31 →
    (isFinite (fmul x defaultParams.radScale) = true →
      2 ^ 31 ≤ |val (fmul x defaultParams.radScale)|) ∧
    fromradAngle defaultParams x = 0#8) ∧
  (∀ (x : Word) (q : Params), isFinite x = true → isFinite (fmul x q.radScale) = true →
    (roundToInt q.fromradRound (fmul x q.radScale) = -162 → fromradAngle q x = 94#8) ∧
    (roundToInt q.fromradRound (fmul x q.radScale) = -1 → fromradAngle q x = 255#8))

/-- Under the reference defaults FROMRAD(TORAD(b)) is 255·b/64 rounded half away from zero, mod 256,
which is b only for b = 0. -/
def Obligations.DefaultRoundTripIsNotTheIdentity : Prop :=
  ∀ b : Angle, (roundTrip defaultParams b).toNat = (2 * 255 * b.toNat + 64) / 128 % 256 ∧
    (roundTrip defaultParams b = b ↔ b = 0#8)

/-- R156: the products at b = 96 and 224 are exact halves that tell the two nearest modes apart, b = 160
is an exact half that does not, b = 32 is none; TowardZero differs on 128 of the 256 bytes. -/
def Obligations.RoundTripTiesSeparateTheModes : Prop :=
  let even : Params := { defaultParams with fromradRound := .halfEven }
  let zero : Params := { defaultParams with fromradRound := .towardZero }
  let product (b : Nat) : ℚ := val (fmul (radRomAt State.reset b) defaultParams.radScale)
  product 96 = 765 / 2 ∧ product 224 = 1785 / 2 ∧ product 160 = 1275 / 2 ∧
  |product 32 - 12750000763 / 100000000| ≤ 1 / 100000000 ∧
  roundTrip defaultParams 96#8 = 127#8 ∧ roundTrip defaultParams 224#8 = 125#8 ∧
  roundTrip even 96#8 = 126#8 ∧ roundTrip even 224#8 = 124#8 ∧
  roundTrip defaultParams 160#8 = 126#8 ∧ roundTrip even 160#8 = 126#8 ∧
  ((List.range 256).filter fun b =>
    roundTrip zero (BitVec.ofNat 8 b) ≠ roundTrip defaultParams (BitVec.ofNat 8 b)).length = 128

/-- With RAD_SCALE = 0x4222F983 and the reference RAD_ROM every byte round-trips under the two nearest
modes, and 122 bytes do not under TowardZero. -/
def Obligations.AlternativeScaleRoundTrips : Prop :=
  (∀ b : Angle, roundTrip alternativeParams b = b ∧
    roundTrip { alternativeParams with fromradRound := .halfEven } b = b) ∧
  ((List.range 256).filter fun b =>
    roundTrip { alternativeParams with fromradRound := .towardZero } (BitVec.ofNat 8 b) ≠
      BitVec.ofNat 8 b).length = 122

/-! ## Whole-machine rules -/

/-- R16: the outcome is a function of the command word and the ROM parameters alone: two machines that
differ in everything else give the same STATUS, and the same RESULT where STATUS is OK. -/
def Obligations.OutcomesArePure : Prop :=
  ∀ (s s' t t' : State) (w : CmdWord) (rest rest' : List HostEvent),
    s.booted = true → s'.booted = true → SameTables s s' →
    s.inputs = .edge { rst := false, cmdValid := true, cmd := w } :: rest →
    s'.inputs = .edge { rst := false, cmdValid := true, cmd := w } :: rest' →
    step s = .next t → step s' = .next t' →
      t.status = t'.status ∧ t.rspValid = t'.rspValid ∧ (t.status = 0b00#2 → t.result = t'.result)

/-- What every command leaves unchanged: the ROMs, the parameters, the events to come, what the host
has read, whether the machine has been reset; the failure record and the free-value counter too, but
for DIV and REM by the zero angle, which add their one entry and draw one value. -/
def Obligations.CommandsLeaveTheRestUnchanged : Prop :=
  ∀ (i : Instr) (s t : State), exec i s = .next t →
    SameTables s t ∧ t.inputs = s.inputs ∧ t.samples = s.samples ∧ t.booted = s.booted ∧
      ((∃ a, i = .div a 0#8 ∨ i = .rem a 0#8) →
        t.failures = s.failures ++ [.divzero] ∧ t.freeCount = s.freeCount + 1) ∧
      ((¬ ∃ a, i = .div a 0#8 ∨ i = .rem a 0#8) →
        t.failures = s.failures ∧ t.freeCount = s.freeCount)

/-- R183: every command but DIV and REM by the zero angle completes with STATUS OK, on every operand. -/
def Obligations.NoOtherCommandFails : Prop :=
  ∀ (i : Instr) (s : State), ∃ t, exec i s = .next t ∧ t.rspValid = true ∧
    (t.status = 0b00#2 ↔ ¬ ∃ a, i = .div a 0#8 ∨ i = .rem a 0#8)

/-- R75: the result formats. -/
def Obligations.ResultsAreFormatted : Prop :=
  ∀ (i : Instr) (s t : State), exec i s = .next t → t.status = 0b00#2 →
    match i with
    | .cmp _ _ => t.result = 1#32 ∨ t.result = 2#32 ∨ t.result = 4#32
    | .sin _ => ∃ k ≤ 64, t.result = sinRomAt s k ∨ t.result = sinRomAt s k ^^^ 0x80000000#32
    | .cos _ => ∃ k ≤ 64, t.result = sinRomAt s k ∨ t.result = sinRomAt s k ^^^ 0x80000000#32
    | .torad a => t.result = radRomAt s a.toNat
    | _ => t.result.toNat < 256

/-- Every step keeps the invariant: STATUS is never the reserved code once reset, the reset values stand
until the first response, a failing STATUS is the newest entry of the record, and nothing responds
before the first reset edge. -/
def Obligations.InvariantKeptByEveryStep : Prop :=
  ∀ s t : State, s.Inv → step s = .next t → t.Inv

/-- The invariant holds right after reset. -/
def Obligations.InvariantHoldsAtReset : Prop := State.reset.Inv

/-- From R189: the record of failures is never cleared, it grows by exactly the failure of each accepted
command whose STATUS is DIVZERO or ILLEGAL, and a step that accepts no word leaves it as it was. The
host's reads are never forgotten either, so that NoFailureRecorded, once false, stays false. That
power-up keeps the record is log 4, that an edge before the first reset edge accepts no word log 6, the
record of early reads log 5. -/
def Obligations.FailureRecordIsSticky : Prop :=
  ∀ s t : State, step s = .next t →
    (∃ more, t.failures = s.failures ++ more) ∧ (∃ more, t.samples = s.samples ++ more) ∧
    (NoFailureRecorded t → NoFailureRecorded s) ∧
    ((¬ ∃ (w : CmdWord) (rest : List HostEvent), s.booted = true ∧
      s.inputs = .edge { rst := false, cmdValid := true, cmd := w } :: rest) →
      t.failures = s.failures) ∧
    (∀ (w : CmdWord) (rest : List HostEvent), s.booted = true →
      s.inputs = .edge { rst := false, cmdValid := true, cmd := w } :: rest →
      t.failures = s.failures ++
        (if t.status = 0b01#2 then [.divzero] else if t.status = 0b10#2 then [.illegal] else []))

/-- R217: while no command is accepted and no reset comes, RESULT and STATUS keep the outcome, and
RSP_VALID falls at the first edge; the next accepted command replaces the outcome. -/
def Obligations.OutcomeStandsUntilTheNextCommand : Prop :=
  ∀ (s : State) (es : List HostEvent) (w : CmdWord) (rest : List HostEvent),
    s.booted = true → (∀ e ∈ es, quiet e = true) →
    s.inputs = es ++ .edge { rst := false, cmdValid := true, cmd := w } :: rest →
      (∃ t, Host.Core.run core es.length s = .next t ∧ t.result = s.result ∧
        t.status = s.status ∧ t.failures = s.failures ∧
        ((∃ p, HostEvent.edge p ∈ es) → t.rspValid = false) ∧
        ((¬ ∃ p, HostEvent.edge p ∈ es) → t.rspValid = s.rspValid)) ∧
      ∃ t, Host.Core.run core (es.length + 1) s = .next t ∧ t.inputs = rest ∧
        RegistersHold t (execute s w.toNat)

/-- Back-to-back commands on consecutive edges answer in order, one response an edge, each response that
of its own command whatever came before it (R59, R214). -/
def Obligations.ResponsesComeInOrder : Prop :=
  ∀ (s : State) (ws : List CmdWord) (rest : List HostEvent), s.booted = true →
    s.inputs = ws.map (fun w => .edge { rst := false, cmdValid := true, cmd := w }) ++ rest →
    ∀ k, (h : k < ws.length) →
      ∃ t, Host.Core.run core (k + 1) s = .next t ∧ SameTables s t ∧
        RegistersHold t (execute s ws[k].toNat)

/-! ## Assembly -/

/-- R81: the expansions of the pseudo-instructions and the host's tests of CMP's result. -/
def Obligations.PseudoInstructionsMeanTheirExpansion : Prop :=
  (∀ (a : Angle) (s : State),
    assemble (.angle a.toNat) = some [encode (.add a 0#8)] ∧
    wordOf (.add a 0#8) s = some (BitVec.ofNat 32 a.toNat) ∧
    assemble (.polar a.toNat) = some [encode (.cos a), encode (.sin a)]) ∧
  assemble .zero = assemble (.angle 0) ∧ assemble .one = assemble (.angle 1) ∧
  ∀ (a b : Angle) (s : State) (w : Word), wordOf (.cmp a b) s = some w →
    (∀ r, assemble (.relation r a.toNat b.toNat) = some [encode (.cmp a b)]) ∧
    (Relation.test .eq w = true ↔ a = b) ∧ (Relation.test .ne w = true ↔ a ≠ b) ∧
    (Relation.test .lt w = true ↔ a.toNat < b.toNat) ∧
    (Relation.test .gt w = true ↔ a.toNat > b.toNat) ∧
    (Relation.test .le w = true ↔ a.toNat ≤ b.toNat) ∧
    (Relation.test .ge w = true ↔ a.toNat ≥ b.toNat)

/-- An angle literal outside 0..255 is refused in every operand place, not reduced mod 256; every
literal within it is taken (R79). -/
def Obligations.AngleLiteralsOutsideAByteAreRefused : Prop :=
  ∀ a b : Nat,
    (255 < a → ∀ f ∈ [Asm.neg, Asm.sin, Asm.cos, Asm.torad, Asm.angle, Asm.polar],
      assemble (f a) = none) ∧
    (a ≤ 255 → ∀ f ∈ [Asm.neg, Asm.sin, Asm.cos, Asm.torad, Asm.angle, Asm.polar],
      assemble (f a) ≠ none) ∧
    (∀ f ∈ [Asm.add, Asm.sub, Asm.mul, Asm.div, Asm.rem, Asm.cmp, Asm.relation .eq,
        Asm.relation .ne, Asm.relation .lt, Asm.relation .gt, Asm.relation .le, Asm.relation .ge],
      assemble (f a b) = none ↔ 255 < a ∨ 255 < b)
end

