-- ==== Sys2Proof/Laws/State.lean ====
section
/-! SUPPORT. One lemma per field of State for each named update, so that no proof unfolds a record update. -/

namespace Sys2Proof.Machine

@[simp] theorem completeOk_result (r : Word) (s : State) :
    (completeOk r s).result = r := rfl
@[simp] theorem completeOk_status (r : Word) (s : State) :
    (completeOk r s).status = Status.ok := rfl
@[simp] theorem completeOk_rspValid (r : Word) (s : State) :
    (completeOk r s).rspValid = true := rfl
@[simp] theorem completeOk_sinRom (r : Word) (s : State) :
    (completeOk r s).sinRom = s.sinRom := rfl
@[simp] theorem completeOk_radRom (r : Word) (s : State) :
    (completeOk r s).radRom = s.radRom := rfl
@[simp] theorem completeOk_params (r : Word) (s : State) :
    (completeOk r s).params = s.params := rfl
@[simp] theorem completeOk_booted (r : Word) (s : State) :
    (completeOk r s).booted = s.booted := rfl
@[simp] theorem completeOk_responded (r : Word) (s : State) :
    (completeOk r s).responded = true := rfl
@[simp] theorem completeOk_failures (r : Word) (s : State) :
    (completeOk r s).failures = s.failures := rfl
@[simp] theorem completeOk_inputs (r : Word) (s : State) :
    (completeOk r s).inputs = s.inputs := rfl
@[simp] theorem completeOk_samples (r : Word) (s : State) :
    (completeOk r s).samples = s.samples := rfl
@[simp] theorem completeOk_freeCount (r : Word) (s : State) :
    (completeOk r s).freeCount = s.freeCount := rfl

@[simp] theorem raiseFailure_result (f : Failure) (s : State) :
    (raiseFailure f s).result = Config.freeResult s.freeCount := rfl
@[simp] theorem raiseFailure_status (f : Failure) (s : State) :
    (raiseFailure f s).status = f.code := rfl
@[simp] theorem raiseFailure_rspValid (f : Failure) (s : State) :
    (raiseFailure f s).rspValid = true := rfl
@[simp] theorem raiseFailure_sinRom (f : Failure) (s : State) :
    (raiseFailure f s).sinRom = s.sinRom := rfl
@[simp] theorem raiseFailure_radRom (f : Failure) (s : State) :
    (raiseFailure f s).radRom = s.radRom := rfl
@[simp] theorem raiseFailure_params (f : Failure) (s : State) :
    (raiseFailure f s).params = s.params := rfl
@[simp] theorem raiseFailure_booted (f : Failure) (s : State) :
    (raiseFailure f s).booted = s.booted := rfl
@[simp] theorem raiseFailure_responded (f : Failure) (s : State) :
    (raiseFailure f s).responded = true := rfl
@[simp] theorem raiseFailure_failures (f : Failure) (s : State) :
    (raiseFailure f s).failures = s.failures ++ [f] := rfl
@[simp] theorem raiseFailure_inputs (f : Failure) (s : State) :
    (raiseFailure f s).inputs = s.inputs := rfl
@[simp] theorem raiseFailure_samples (f : Failure) (s : State) :
    (raiseFailure f s).samples = s.samples := rfl
@[simp] theorem raiseFailure_freeCount (f : Failure) (s : State) :
    (raiseFailure f s).freeCount = s.freeCount + 1 := rfl

@[simp] theorem applyReset_result (s : State) :
    (applyReset s).result = 0#32 := rfl
@[simp] theorem applyReset_status (s : State) :
    (applyReset s).status = Status.ok := rfl
@[simp] theorem applyReset_rspValid (s : State) :
    (applyReset s).rspValid = false := rfl
@[simp] theorem applyReset_sinRom (s : State) :
    (applyReset s).sinRom = s.sinRom := rfl
@[simp] theorem applyReset_radRom (s : State) :
    (applyReset s).radRom = s.radRom := rfl
@[simp] theorem applyReset_params (s : State) :
    (applyReset s).params = s.params := rfl
@[simp] theorem applyReset_booted (s : State) :
    (applyReset s).booted = true := rfl
@[simp] theorem applyReset_responded (s : State) :
    (applyReset s).responded = false := rfl
@[simp] theorem applyReset_failures (s : State) :
    (applyReset s).failures = s.failures := rfl
@[simp] theorem applyReset_inputs (s : State) :
    (applyReset s).inputs = s.inputs := rfl
@[simp] theorem applyReset_samples (s : State) :
    (applyReset s).samples = s.samples := rfl
@[simp] theorem applyReset_freeCount (s : State) :
    (applyReset s).freeCount = s.freeCount := rfl

@[simp] theorem idle_result (s : State) :
    (idle s).result = s.result := rfl
@[simp] theorem idle_status (s : State) :
    (idle s).status = s.status := rfl
@[simp] theorem idle_rspValid (s : State) :
    (idle s).rspValid = false := rfl
@[simp] theorem idle_sinRom (s : State) :
    (idle s).sinRom = s.sinRom := rfl
@[simp] theorem idle_radRom (s : State) :
    (idle s).radRom = s.radRom := rfl
@[simp] theorem idle_params (s : State) :
    (idle s).params = s.params := rfl
@[simp] theorem idle_booted (s : State) :
    (idle s).booted = s.booted := rfl
@[simp] theorem idle_responded (s : State) :
    (idle s).responded = s.responded := rfl
@[simp] theorem idle_failures (s : State) :
    (idle s).failures = s.failures := rfl
@[simp] theorem idle_inputs (s : State) :
    (idle s).inputs = s.inputs := rfl
@[simp] theorem idle_samples (s : State) :
    (idle s).samples = s.samples := rfl
@[simp] theorem idle_freeCount (s : State) :
    (idle s).freeCount = s.freeCount := rfl

@[simp] theorem drawRegisters_result (s : State) :
    (drawRegisters s).result = Config.freeResult s.freeCount := rfl
@[simp] theorem drawRegisters_status (s : State) :
    (drawRegisters s).status = Config.freeStatus s.freeCount := rfl
@[simp] theorem drawRegisters_rspValid (s : State) :
    (drawRegisters s).rspValid = Config.freeRspValid s.freeCount := rfl
@[simp] theorem drawRegisters_sinRom (s : State) :
    (drawRegisters s).sinRom = s.sinRom := rfl
@[simp] theorem drawRegisters_radRom (s : State) :
    (drawRegisters s).radRom = s.radRom := rfl
@[simp] theorem drawRegisters_params (s : State) :
    (drawRegisters s).params = s.params := rfl
@[simp] theorem drawRegisters_booted (s : State) :
    (drawRegisters s).booted = s.booted := rfl
@[simp] theorem drawRegisters_responded (s : State) :
    (drawRegisters s).responded = s.responded := rfl
@[simp] theorem drawRegisters_failures (s : State) :
    (drawRegisters s).failures = s.failures := rfl
@[simp] theorem drawRegisters_inputs (s : State) :
    (drawRegisters s).inputs = s.inputs := rfl
@[simp] theorem drawRegisters_samples (s : State) :
    (drawRegisters s).samples = s.samples := rfl
@[simp] theorem drawRegisters_freeCount (s : State) :
    (drawRegisters s).freeCount = s.freeCount + 1 := rfl

@[simp] theorem powerUp_result (s : State) :
    (powerUp s).result = Config.freeResult s.freeCount := rfl
@[simp] theorem powerUp_status (s : State) :
    (powerUp s).status = Config.freeStatus s.freeCount := rfl
@[simp] theorem powerUp_rspValid (s : State) :
    (powerUp s).rspValid = Config.freeRspValid s.freeCount := rfl
@[simp] theorem powerUp_sinRom (s : State) :
    (powerUp s).sinRom = s.sinRom := rfl
@[simp] theorem powerUp_radRom (s : State) :
    (powerUp s).radRom = s.radRom := rfl
@[simp] theorem powerUp_params (s : State) :
    (powerUp s).params = s.params := rfl
@[simp] theorem powerUp_booted (s : State) :
    (powerUp s).booted = false := rfl
@[simp] theorem powerUp_responded (s : State) :
    (powerUp s).responded = false := rfl
@[simp] theorem powerUp_failures (s : State) :
    (powerUp s).failures = s.failures := rfl
@[simp] theorem powerUp_inputs (s : State) :
    (powerUp s).inputs = s.inputs := rfl
@[simp] theorem powerUp_samples (s : State) :
    (powerUp s).samples = s.samples := rfl
@[simp] theorem powerUp_freeCount (s : State) :
    (powerUp s).freeCount = s.freeCount + 1 := rfl

@[simp] theorem recordRead_result (r : HostRead) (s : State) :
    (recordRead r s).result = s.result := rfl
@[simp] theorem recordRead_status (r : HostRead) (s : State) :
    (recordRead r s).status = s.status := rfl
@[simp] theorem recordRead_rspValid (r : HostRead) (s : State) :
    (recordRead r s).rspValid = s.rspValid := rfl
@[simp] theorem recordRead_sinRom (r : HostRead) (s : State) :
    (recordRead r s).sinRom = s.sinRom := rfl
@[simp] theorem recordRead_radRom (r : HostRead) (s : State) :
    (recordRead r s).radRom = s.radRom := rfl
@[simp] theorem recordRead_params (r : HostRead) (s : State) :
    (recordRead r s).params = s.params := rfl
@[simp] theorem recordRead_booted (r : HostRead) (s : State) :
    (recordRead r s).booted = s.booted := rfl
@[simp] theorem recordRead_responded (r : HostRead) (s : State) :
    (recordRead r s).responded = s.responded := rfl
@[simp] theorem recordRead_failures (r : HostRead) (s : State) :
    (recordRead r s).failures = s.failures := rfl
@[simp] theorem recordRead_inputs (r : HostRead) (s : State) :
    (recordRead r s).inputs = s.inputs := rfl
@[simp] theorem recordRead_samples (r : HostRead) (s : State) :
    (recordRead r s).samples = s.samples ++ [r] := rfl
@[simp] theorem recordRead_freeCount (r : HostRead) (s : State) :
    (recordRead r s).freeCount = s.freeCount := rfl

@[simp] theorem hostPoll_result (s : State) :
    (hostPoll s).result = s.result := rfl
@[simp] theorem hostPoll_status (s : State) :
    (hostPoll s).status = s.status := rfl
@[simp] theorem hostPoll_rspValid (s : State) :
    (hostPoll s).rspValid = s.rspValid := rfl
@[simp] theorem hostPoll_sinRom (s : State) :
    (hostPoll s).sinRom = s.sinRom := rfl
@[simp] theorem hostPoll_radRom (s : State) :
    (hostPoll s).radRom = s.radRom := rfl
@[simp] theorem hostPoll_params (s : State) :
    (hostPoll s).params = s.params := rfl
@[simp] theorem hostPoll_booted (s : State) :
    (hostPoll s).booted = s.booted := rfl
@[simp] theorem hostPoll_responded (s : State) :
    (hostPoll s).responded = s.responded := rfl
@[simp] theorem hostPoll_failures (s : State) :
    (hostPoll s).failures = s.failures := rfl
@[simp] theorem hostPoll_inputs (s : State) :
    (hostPoll s).inputs = s.inputs := rfl
@[simp] theorem hostPoll_samples (s : State) :
    (hostPoll s).samples = s.samples ++ [.valid s.rspValid] := rfl
@[simp] theorem hostPoll_freeCount (s : State) :
    (hostPoll s).freeCount = s.freeCount := rfl

@[simp] theorem hostSample_result (s : State) :
    (hostSample s).result = s.result := rfl
@[simp] theorem hostSample_status (s : State) :
    (hostSample s).status = s.status := rfl
@[simp] theorem hostSample_rspValid (s : State) :
    (hostSample s).rspValid = s.rspValid := rfl
@[simp] theorem hostSample_sinRom (s : State) :
    (hostSample s).sinRom = s.sinRom := rfl
@[simp] theorem hostSample_radRom (s : State) :
    (hostSample s).radRom = s.radRom := rfl
@[simp] theorem hostSample_params (s : State) :
    (hostSample s).params = s.params := rfl
@[simp] theorem hostSample_booted (s : State) :
    (hostSample s).booted = s.booted := rfl
@[simp] theorem hostSample_responded (s : State) :
    (hostSample s).responded = s.responded := rfl
@[simp] theorem hostSample_failures (s : State) :
    (hostSample s).failures = s.failures := rfl
@[simp] theorem hostSample_inputs (s : State) :
    (hostSample s).inputs = s.inputs := rfl
@[simp] theorem hostSample_samples (s : State) :
    (hostSample s).samples = s.samples ++ [sampledRead s] := rfl
@[simp] theorem hostSample_freeCount (s : State) :
    (hostSample s).freeCount = s.freeCount := rfl

@[simp] theorem withInputs_result (s : State) (es : List HostEvent) :
    (withInputs s es).result = s.result := rfl
@[simp] theorem withInputs_status (s : State) (es : List HostEvent) :
    (withInputs s es).status = s.status := rfl
@[simp] theorem withInputs_rspValid (s : State) (es : List HostEvent) :
    (withInputs s es).rspValid = s.rspValid := rfl
@[simp] theorem withInputs_sinRom (s : State) (es : List HostEvent) :
    (withInputs s es).sinRom = s.sinRom := rfl
@[simp] theorem withInputs_radRom (s : State) (es : List HostEvent) :
    (withInputs s es).radRom = s.radRom := rfl
@[simp] theorem withInputs_params (s : State) (es : List HostEvent) :
    (withInputs s es).params = s.params := rfl
@[simp] theorem withInputs_booted (s : State) (es : List HostEvent) :
    (withInputs s es).booted = s.booted := rfl
@[simp] theorem withInputs_responded (s : State) (es : List HostEvent) :
    (withInputs s es).responded = s.responded := rfl
@[simp] theorem withInputs_failures (s : State) (es : List HostEvent) :
    (withInputs s es).failures = s.failures := rfl
@[simp] theorem withInputs_inputs (s : State) (es : List HostEvent) :
    (withInputs s es).inputs = es := rfl
@[simp] theorem withInputs_samples (s : State) (es : List HostEvent) :
    (withInputs s es).samples = s.samples := rfl
@[simp] theorem withInputs_freeCount (s : State) (es : List HostEvent) :
    (withInputs s es).freeCount = s.freeCount := rfl

theorem sampledRead_of_responded {s : State} (h : s.responded = true) :
    sampledRead s = .response { valid := s.rspValid, result := s.result, status := s.status } := by
  simp [sampledRead, h, responsePorts]

theorem sampledRead_early {s : State} (h : s.responded = false) :
    sampledRead s = .early s.rspValid := by
  simp [sampledRead, h, responsePorts]

@[simp] theorem withFetchWord_inputs (s : State) (nbits w : Nat) :
    (s.withFetchWord nbits w).inputs = presentTableWord nbits w :: s.inputs := rfl

end Sys2Proof.Machine
end

