-- ==== Sys2Proof/Laws/Exec.lean ====
section
/-! SUPPORT. What exec can do, said once: a command answers `respond` of an outcome that depends on its
operands, the ROMs and the parameters alone. -/

namespace Sys2Proof.Machine

/-- The outcome of a command (00_scope.md R13): `Execute` after decoding. -/
def outcomeOf (i : Instr) (s : State) : CmdOutcome :=
  match i with
  | .neg a => .ok (zext32 (0#8 - a))
  | .add a b => .ok (zext32 (a + b))
  | .sub a b => .ok (zext32 (a - b))
  | .mul a b => .ok (zext32 (a * b))
  | .div a b => divOutcome a b
  | .rem a b => remOutcome a b
  | .cmp a b => .ok (orderingWord a b)
  | .sin a => .ok (sinWord s a)
  | .cos a => .ok (cosWord s a)
  | .torad a => .ok (romReadRad s a)
  | .fromrad x => .ok (zext32 (fromradAngle s.params x))

/-- exec always answers a next state: the outcome put in the registers. -/
theorem exec_eq_respond (i : Instr) (s : State) : exec i s = .next (respond (outcomeOf i s) s) := by
  cases i <;> rfl

theorem exec_next_iff {i : Instr} {s t : State} :
    exec i s = .next t ↔ t = respond (outcomeOf i s) s := by
  rw [exec_eq_respond]
  constructor
  · intro h
    injection h with h
    exact h.symm
  · rintro rfl
    rfl

@[simp] theorem respond_ok (r : Word) (s : State) : respond (.ok r) s = completeOk r s := rfl

@[simp] theorem respond_raised (f : Failure) (s : State) :
    respond (.raised f) s = raiseFailure f s := rfl

/-- Only DIV and REM by the zero angle raise a status. -/
theorem outcomeOf_raised {i : Instr} {s : State} {f : Failure} (h : outcomeOf i s = .raised f) :
    f = .divzero ∧ ∃ a, i = .div a 0#8 ∨ i = .rem a 0#8 := by
  cases i with
  | div a b =>
    simp only [outcomeOf, divOutcome] at h
    split at h
    · rename_i hb
      subst hb
      exact ⟨by injection h with h; exact h.symm, a, .inl rfl⟩
    · cases h
  | rem a b =>
    simp only [outcomeOf, remOutcome] at h
    split at h
    · rename_i hb
      subst hb
      exact ⟨by injection h with h; exact h.symm, a, .inr rfl⟩
    · cases h
  | _ => simp [outcomeOf] at h

@[simp] theorem respond_rspValid (o : CmdOutcome) (s : State) : (respond o s).rspValid = true := by
  cases o <;> rfl

@[simp] theorem respond_responded (o : CmdOutcome) (s : State) : (respond o s).responded = true := by
  cases o <;> rfl

@[simp] theorem respond_sinRom (o : CmdOutcome) (s : State) : (respond o s).sinRom = s.sinRom := by
  cases o <;> rfl

@[simp] theorem respond_radRom (o : CmdOutcome) (s : State) : (respond o s).radRom = s.radRom := by
  cases o <;> rfl

@[simp] theorem respond_params (o : CmdOutcome) (s : State) : (respond o s).params = s.params := by
  cases o <;> rfl

@[simp] theorem respond_booted (o : CmdOutcome) (s : State) : (respond o s).booted = s.booted := by
  cases o <;> rfl

@[simp] theorem respond_inputs (o : CmdOutcome) (s : State) : (respond o s).inputs = s.inputs := by
  cases o <;> rfl

@[simp] theorem respond_samples (o : CmdOutcome) (s : State) : (respond o s).samples = s.samples := by
  cases o <;> rfl

end Sys2Proof.Machine
end

