-- ==== Sys2Proof/Laws/Float.lean ====
section
/-! SUPPORT. Values as exact multiples of 2^-149, what rounding a quotient gives, and a check of the
constraints on SIN_ROM that the kernel can evaluate. -/

namespace Sys2Proof.Machine

/-- The value of a finite pattern in units of 2^-149, with its sign. -/
def signedUnits (w : Word) : ℤ := if signBit w then -(magnitude w : ℤ) else (magnitude w : ℤ)

/-- `val` is the signed magnitude in units of 2^-149. -/
theorem val_eq_signedUnits (w : Word) : val w = (signedUnits w : ℚ) / 2 ^ 149 := by
  have he : (w.extractLsb' 23 8).toNat = expField w := rfl
  have hf : (w.extractLsb' 0 23).toNat = fracField w := rfl
  have hs : w.getLsbD 31 = signBit w := rfl
  have hmag : (if expField w = 0 then (2 : ℚ) ^ (-126 : ℤ) * (fracField w / 2 ^ 23)
      else (2 : ℚ) ^ ((expField w : ℤ) - 127) * (1 + fracField w / 2 ^ 23)) =
      (magnitude w : ℚ) / 2 ^ 149 := by
    unfold magnitude
    split
    · rw [zpow_neg]
      norm_num
      ring
    · rename_i h0
      obtain ⟨k, hk⟩ : ∃ k, expField w = k + 1 := ⟨expField w - 1, by omega⟩
      have hexp : ((k + 1 : ℕ) : ℤ) - 127 = (k : ℤ) + (-126) := by push_cast; ring
      rw [hk, hexp, zpow_add₀ (by norm_num), zpow_natCast, Nat.add_sub_cancel]
      push_cast
      norm_num
      ring
  unfold val signedUnits
  rw [he, hf, hs, hmag]
  cases signBit w <;> simp [neg_div]

theorem val_le_iff (v w : Word) : val v ≤ val w ↔ signedUnits v ≤ signedUnits w := by
  rw [val_eq_signedUnits, val_eq_signedUnits, div_le_div_iff_of_pos_right (by positivity)]
  exact Int.cast_le

theorem val_lt_iff (v w : Word) : val v < val w ↔ signedUnits v < signedUnits w := by
  rw [val_eq_signedUnits, val_eq_signedUnits, div_lt_div_iff_of_pos_right (by positivity)]
  exact Int.cast_lt

/-- A quotient rounded half up: the integer within one half, from below at a tie. -/
theorem roundQuotient_halfAwayFromZero {num den : Nat} (h : 0 < den) :
    2 * num < 2 * (roundQuotient .halfAwayFromZero num den * den) + den ∧
      2 * (roundQuotient .halfAwayFromZero num den * den) ≤ 2 * num + den := by
  have hd := Nat.div_add_mod num den
  have hm := Nat.mod_lt num h
  have hc : den * (num / den) = num / den * den := Nat.mul_comm _ _
  unfold roundQuotient
  dsimp only
  split
  · constructor <;> omega
  · rw [Nat.add_mul]
    constructor <;> omega

/-- A quotient rounded to nearest even: the integer within one half, even at a tie. -/
theorem roundQuotient_halfEven {num den : Nat} (h : 0 < den) :
    2 * num ≤ 2 * (roundQuotient .halfEven num den * den) + den ∧
      2 * (roundQuotient .halfEven num den * den) ≤ 2 * num + den ∧
      ((2 * num = 2 * (roundQuotient .halfEven num den * den) + den ∨
        2 * (roundQuotient .halfEven num den * den) = 2 * num + den) →
        roundQuotient .halfEven num den % 2 = 0) := by
  have hd := Nat.div_add_mod num den
  have hm := Nat.mod_lt num h
  have hc : den * (num / den) = num / den * den := Nat.mul_comm _ _
  unfold roundQuotient
  dsimp only
  split
  · refine ⟨by omega, by omega, fun ht => by omega⟩
  · rw [Nat.add_mul]
    refine ⟨by omega, by omega, fun ht => by omega⟩

/-- A quotient rounded toward zero: the floor. -/
theorem roundQuotient_towardZero (num den : Nat) :
    roundQuotient .towardZero num den = num / den := rfl

/-! ## Checking a ROM -/

/-- The constraints of 10_state.md R28 on a table of words, in integers. -/
def sinRomCheck (rom : Vector Word 65) : Bool :=
  decide (signedUnits rom[0] = 0) && decide (signedUnits rom[64] = unitsPerOne) &&
    decide (∀ i : Fin 63, signedUnits rom[i.val] ≤ signedUnits rom[i.val + 1]) &&
    decide (∀ i : Fin 65,
      100000 * (signedUnits rom[i.val] ^ 2 + signedUnits rom[64 - i.val] ^ 2 - unitsPerOne ^ 2).natAbs
        ≤ unitsPerOne ^ 2) &&
    decide (∀ i : Fin 65, isFinite rom[i.val] = true ∧ 0 ≤ signedUnits rom[i.val])

/-- The unit-circle bound in units and in values. -/
theorem unitCircle_of_units (x y : ℤ)
    (h : 100000 * (x ^ 2 + y ^ 2 - (unitsPerOne : ℤ) ^ 2).natAbs ≤ unitsPerOne ^ 2) :
    |((x : ℚ) / 2 ^ 149) ^ 2 + ((y : ℚ) / 2 ^ 149) ^ 2 - 1| ≤ 1 / 100000 := by
  have hD : ((unitsPerOne : ℕ) : ℚ) = 2 ^ 149 := by norm_num [unitsPerOne]
  have hq : (100000 : ℚ) * |(x : ℚ) ^ 2 + (y : ℚ) ^ 2 - (unitsPerOne : ℚ) ^ 2| ≤
      (unitsPerOne : ℚ) ^ 2 := by
    have h' : (100000 : ℤ) * |x ^ 2 + y ^ 2 - (unitsPerOne : ℤ) ^ 2| ≤ (unitsPerOne : ℤ) ^ 2 := by
      rw [Int.abs_eq_natAbs]
      exact_mod_cast h
    exact_mod_cast h'
  have hpos : (0 : ℚ) < (unitsPerOne : ℚ) ^ 2 := by rw [hD]; positivity
  rw [← hD]
  have he : ((x : ℚ) / (unitsPerOne : ℚ)) ^ 2 + ((y : ℚ) / (unitsPerOne : ℚ)) ^ 2 - 1 =
      ((x : ℚ) ^ 2 + (y : ℚ) ^ 2 - (unitsPerOne : ℚ) ^ 2) / (unitsPerOne : ℚ) ^ 2 := by
    field_simp
  rw [he, abs_div, abs_of_pos hpos, div_le_div_iff₀ hpos (by norm_num)]
  linarith

theorem sinRomConstraints_of_check {rom : Vector Word 65} (h : sinRomCheck rom = true) :
    SinRomConstraints rom := by
  simp only [sinRomCheck, Bool.and_eq_true, decide_eq_true_eq] at h
  obtain ⟨⟨⟨⟨h0, h64⟩, hm⟩, hu⟩, hf⟩ := h
  refine ⟨?_, ?_, fun i hi => ?_, fun i hi => ?_, fun i hi => ⟨(hf ⟨i, by omega⟩).1, ?_⟩⟩
  · rw [val_eq_signedUnits, h0]
    norm_num
  · rw [val_eq_signedUnits, h64, unitsPerOne]
    norm_num
  · exact (val_le_iff _ _).2 (hm ⟨i, by omega⟩)
  · have hi' := hu ⟨i, by omega⟩
    dsimp only at hi'
    rw [val_eq_signedUnits, val_eq_signedUnits]
    exact unitCircle_of_units _ _ hi'
  · have := (hf ⟨i, by omega⟩).2
    rw [val_eq_signedUnits]
    have h' : (0 : ℚ) ≤ (signedUnits rom[i] : ℚ) := by exact_mod_cast this
    positivity

end Sys2Proof.Machine
end

