-- ==== Sys2Proof/Laws/PerInstr.lean ====
section
/-! SUPPORT. What holds of every command as syntax: its word is legal and has its opcode and a clear
reserved field (30_encoding.md R70, R72, R76). -/

namespace Sys2Proof.Laws.EncodedForm

open Sys2Proof.Machine

/-- The opcode of R72. -/
def opcode : Instr → BitVec 4
  | .neg _ => 0x1#4
  | .add _ _ => 0x2#4
  | .sub _ _ => 0x3#4
  | .mul _ _ => 0x4#4
  | .div _ _ => 0x5#4
  | .rem _ _ => 0x6#4
  | .cmp _ _ => 0x7#4
  | .sin _ => 0x8#4
  | .cos _ => 0x9#4
  | .torad _ => 0xA#4
  | .fromrad _ => 0xB#4

/-- The word of a command is legal and carries its opcode. -/
def Statement (i : Instr) : Prop :=
  wellFormedWord (encode i) = true ∧ opField (encode i) = opcode i ∧ rsvField (encode i) = 0#4

/-- A command word is the sum of its shifted fields (R80). -/
theorem toNat_commandWord (op : BitVec 4) (b : Angle) (x : Word) :
    (commandWord op b x).toNat = op.toNat * 2 ^ 44 + b.toNat * 2 ^ 32 + x.toNat := by
  have h : (commandWord op b x).toNat = (op ++ 0x0#4 ++ b ++ x : BitVec (4 + 4 + 8 + 32)).toNat := rfl
  have := x.isLt
  have := b.isLt
  rw [h, BitVec.toNat_append, BitVec.toNat_append, BitVec.toNat_append,
    ← Nat.shiftLeft_add_eq_or_of_lt (by omega), ← Nat.shiftLeft_add_eq_or_of_lt (by omega),
    ← Nat.shiftLeft_add_eq_or_of_lt (by simp)]
  simp only [Nat.shiftLeft_eq, BitVec.toNat_ofNat]
  omega

/-- A field of a word as a number. -/
theorem toNat_field (w : CmdWord) (lo n : Nat) :
    (w.extractLsb' lo n).toNat = w.toNat / 2 ^ lo % 2 ^ n := by
  simp [BitVec.extractLsb'_toNat, Nat.shiftRight_eq_div_pow]

theorem opField_commandWord (op : BitVec 4) (b : Angle) (x : Word) :
    opField (commandWord op b x) = op := by
  apply BitVec.eq_of_toNat_eq
  rw [opField, toNat_field, toNat_commandWord]
  have := x.isLt
  have := b.isLt
  have := op.isLt
  omega

theorem rsvField_commandWord (op : BitVec 4) (b : Angle) (x : Word) :
    rsvField (commandWord op b x) = 0#4 := by
  apply BitVec.eq_of_toNat_eq
  rw [rsvField, toNat_field, toNat_commandWord, BitVec.toNat_ofNat]
  have := x.isLt
  have := b.isLt
  omega

theorem operandB_commandWord (op : BitVec 4) (b : Angle) (x : Word) :
    operandB (commandWord op b x) = b := by
  apply BitVec.eq_of_toNat_eq
  rw [operandB, toNat_field, toNat_commandWord]
  have := x.isLt
  have := b.isLt
  omega

theorem operandX_commandWord (op : BitVec 4) (b : Angle) (x : Word) :
    operandX (commandWord op b x) = x := by
  apply BitVec.eq_of_toNat_eq
  rw [operandX, toNat_field, toNat_commandWord]
  have := x.isLt
  omega

theorem operandA_commandWord (op : BitVec 4) (b a : Angle) :
    operandA (commandWord op b (zext32 a)) = a := by
  apply BitVec.eq_of_toNat_eq
  have := a.isLt
  rw [operandA, toNat_field, toNat_commandWord, zext32, BitVec.toNat_setWidth]
  omega

theorem wellFormedWord_commandWord {op : BitVec 4} (b : Angle) (x : Word) (h₁ : 1 ≤ op.toNat)
    (h₂ : op.toNat ≤ 11) : wellFormedWord (commandWord op b x) = true := by
  have ho := opField_commandWord op b x
  have hr := rsvField_commandWord op b x
  unfold opField at ho
  unfold rsvField at hr
  simp [wellFormedWord, reservedFieldClear, opcodeAssigned, ho, hr, h₁, h₂]

/-- One lemma for every opcode. -/
theorem commandWord_form {op : BitVec 4} (b : Angle) (x : Word) (h₁ : 1 ≤ op.toNat)
    (h₂ : op.toNat ≤ 11) :
    wellFormedWord (commandWord op b x) = true ∧ opField (commandWord op b x) = op ∧
      rsvField (commandWord op b x) = 0#4 :=
  ⟨wellFormedWord_commandWord b x h₁ h₂, opField_commandWord op b x, rsvField_commandWord op b x⟩

theorem neg (a : Angle) : Statement (.neg a) := commandWord_form _ _ (by decide) (by decide)
theorem add (a b : Angle) : Statement (.add a b) := commandWord_form _ _ (by decide) (by decide)
theorem sub (a b : Angle) : Statement (.sub a b) := commandWord_form _ _ (by decide) (by decide)
theorem mul (a b : Angle) : Statement (.mul a b) := commandWord_form _ _ (by decide) (by decide)
theorem div (a b : Angle) : Statement (.div a b) := commandWord_form _ _ (by decide) (by decide)
theorem rem (a b : Angle) : Statement (.rem a b) := commandWord_form _ _ (by decide) (by decide)
theorem cmp (a b : Angle) : Statement (.cmp a b) := commandWord_form _ _ (by decide) (by decide)
theorem sin (a : Angle) : Statement (.sin a) := commandWord_form _ _ (by decide) (by decide)
theorem cos (a : Angle) : Statement (.cos a) := commandWord_form _ _ (by decide) (by decide)
theorem torad (a : Angle) : Statement (.torad a) := commandWord_form _ _ (by decide) (by decide)
theorem fromrad (x : Word) : Statement (.fromrad x) := commandWord_form _ _ (by decide) (by decide)

end Sys2Proof.Laws.EncodedForm
end

