-- ==== Sys2Proof/Laws/Step.lean ====
section
/-! SUPPORT. What one step can do, said once. -/

namespace Sys2Proof.Machine

/-- The outcome of an accepted word: that of its command, or ILLEGAL (30_encoding.md R73, R76). -/
def wordOutcome (w : CmdWord) (s : State) : CmdOutcome :=
  match decode w with
  | .ok i => outcomeOf i s
  | .error _ => .raised .illegal

theorem acceptWord_eq_respond (w : CmdWord) (s : State) :
    acceptWord w s = .next (respond (wordOutcome w s) s) := by
  unfold acceptWord wordOutcome
  cases decode w with
  | ok i => exact exec_eq_respond i s
  | error e => rfl

/-- The outcome does not look at the registers, the records or the events. -/
theorem outcomeOf_congr {s t : State} (i : Instr) (h₁ : s.sinRom = t.sinRom)
    (h₂ : s.radRom = t.radRom) (h₃ : s.params = t.params) : outcomeOf i s = outcomeOf i t := by
  cases i <;> simp [outcomeOf, sinWord, cosWord, romReadSin, romReadRad, h₁, h₂, h₃]

theorem wordOutcome_congr {s t : State} (w : CmdWord) (h₁ : s.sinRom = t.sinRom)
    (h₂ : s.radRom = t.radRom) (h₃ : s.params = t.params) : wordOutcome w s = wordOutcome w t := by
  unfold wordOutcome
  cases decode w with
  | ok i => exact outcomeOf_congr i h₁ h₂ h₃
  | error e => rfl

@[simp] theorem outcomeOf_withInputs (i : Instr) (s : State) (es : List HostEvent) :
    outcomeOf i (withInputs s es) = outcomeOf i s := outcomeOf_congr i rfl rfl rfl

@[simp] theorem wordOutcome_withInputs (w : CmdWord) (s : State) (es : List HostEvent) :
    wordOutcome w (withInputs s es) = wordOutcome w s := wordOutcome_congr w rfl rfl rfl

theorem step_nil {s : State} (h : s.inputs = []) : step s = .next s := by
  unfold step
  rw [h]

theorem step_cons {s : State} {e : HostEvent} {rest : List HostEvent} (h : s.inputs = e :: rest) :
    step s = hostEvent e (withInputs s rest) := by
  unfold step
  rw [h]

theorem clockEdge_rst {p : PortInputs} {s : State} (h : p.rst = true) :
    clockEdge p s = .next (applyReset s) := by
  simp [clockEdge, h]

theorem clockEdge_unbooted {p : PortInputs} {s : State} (h : p.rst = false)
    (hb : s.booted = false) : clockEdge p s = .next (drawRegisters s) := by
  simp [clockEdge, h, hb]

theorem clockEdge_accept {p : PortInputs} {s : State} (h : p.rst = false) (hb : s.booted = true)
    (hv : p.cmdValid = true) :
    clockEdge p s = .next (respond (wordOutcome p.cmd s) s) := by
  simp [clockEdge, h, hb, hv, acceptWord_eq_respond]

theorem clockEdge_idle {p : PortInputs} {s : State} (h : p.rst = false) (hb : s.booted = true)
    (hv : p.cmdValid = false) : clockEdge p s = .next (idle s) := by
  simp [clockEdge, h, hb, hv]

/-- An edge always has a next state. -/
theorem clockEdge_next (p : PortInputs) (s : State) : ∃ t, clockEdge p s = .next t := by
  rcases p with ⟨_ | _, v, w⟩
  · cases hb : s.booted
    · exact ⟨_, clockEdge_unbooted rfl hb⟩
    · cases v
      · exact ⟨_, clockEdge_idle rfl hb rfl⟩
      · exact ⟨_, clockEdge_accept rfl hb rfl⟩
  · exact ⟨_, clockEdge_rst rfl⟩

/-- Everything a step that answers a next state can have done. -/
theorem step_cases {s t : State} (h : step s = .next t) :
    (s.inputs = [] ∧ t = s) ∨
    ∃ e rest, s.inputs = e :: rest ∧
      ((∃ p, e = .edge p ∧ p.rst = true ∧ t = applyReset (withInputs s rest)) ∨
       (∃ p, e = .edge p ∧ p.rst = false ∧ s.booted = false ∧
          t = drawRegisters (withInputs s rest)) ∨
       (∃ p, e = .edge p ∧ p.rst = false ∧ s.booted = true ∧ p.cmdValid = true ∧
          t = respond (wordOutcome p.cmd s) (withInputs s rest)) ∨
       (∃ p, e = .edge p ∧ p.rst = false ∧ s.booted = true ∧ p.cmdValid = false ∧
          t = idle (withInputs s rest)) ∨
       (e = .pollValid ∧ t = hostPoll (withInputs s rest)) ∨
       (e = .sample ∧ t = hostSample (withInputs s rest)) ∨
       (e = .clockStopped ∧ t = withInputs s rest) ∨
       (e = .powerOn ∧ t = powerUp (withInputs s rest))) := by
  cases hi : s.inputs with
  | nil =>
    rw [step_nil hi] at h
    injection h with h
    exact .inl ⟨rfl, h.symm⟩
  | cons e rest =>
    rw [step_cons hi] at h
    refine .inr ⟨e, rest, rfl, ?_⟩
    cases e with
    | edge p =>
      have h' : clockEdge p (withInputs s rest) = .next t := h
      cases hr : p.rst
      · cases hb : s.booted
        · rw [clockEdge_unbooted hr (by simpa using hb)] at h'
          injection h' with h'
          exact .inr (.inl ⟨p, rfl, hr, rfl, h'.symm⟩)
        · cases hv : p.cmdValid
          · rw [clockEdge_idle hr (by simpa using hb) hv] at h'
            injection h' with h'
            exact .inr (.inr (.inr (.inl ⟨p, rfl, hr, rfl, hv, h'.symm⟩)))
          · rw [clockEdge_accept hr (by simpa using hb) hv, wordOutcome_withInputs] at h'
            injection h' with h'
            exact .inr (.inr (.inl ⟨p, rfl, hr, rfl, hv, h'.symm⟩))
      · rw [clockEdge_rst hr] at h'
        injection h' with h'
        exact .inl ⟨p, rfl, hr, h'.symm⟩
    | unstableEdge => cases h
    | pollValid =>
      injection h with h
      exact .inr (.inr (.inr (.inr (.inl ⟨rfl, h.symm⟩))))
    | sample =>
      injection h with h
      exact .inr (.inr (.inr (.inr (.inr (.inl ⟨rfl, h.symm⟩)))))
    | clockStopped =>
      injection h with h
      exact .inr (.inr (.inr (.inr (.inr (.inr (.inl ⟨rfl, h.symm⟩))))))
    | powerOn =>
      injection h with h
      exact .inr (.inr (.inr (.inr (.inr (.inr (.inr ⟨rfl, h.symm⟩))))))

/-- A step stops only at an edge with unstable inputs: nothing else is refused, nothing faults. -/
theorem step_answers_or_unstable (s : State) :
    (∃ t, step s = .next t) ∨
      (step s = .refused .unstableInput ∧ ∃ rest, s.inputs = .unstableEdge :: rest) := by
  cases hi : s.inputs with
  | nil => exact .inl ⟨s, step_nil hi⟩
  | cons e rest =>
    rw [step_cons hi]
    cases e with
    | edge p => exact .inl (clockEdge_next p _)
    | unstableEdge => exact .inr ⟨rfl, rest, rfl⟩
    | _ => exact .inl ⟨_, rfl⟩

/-- A run of one step more, once the first step is known. -/
theorem run_succ {s t : State} (k : Nat) (h : step s = .next t) :
    Host.Core.run Sys2Proof.core (k + 1) s = Host.Core.run Sys2Proof.core k t := by
  have h' : Sys2Proof.core.step s = .next t := h
  simp only [Host.Core.run, h']

end Sys2Proof.Machine
end

