-- ==== Sys2Proof/Tests/Slice0.lean ====
section
/-! SUPPORT. Small tests. Every expected value is written out from spec/: the encoding of 30_encoding.md,
the vectors of 95_test_vectors.md (section and row named), or a rule's example. The last part gives, for
each statement with hypotheses, a state and operands that meet them. -/

namespace Sys2Proof.Tests

open Sys2Proof Sys2Proof.Machine Sys2Proof.Claims

/-! ## Well-formedness: one ill-formed term for each check -/

theorem test_wf_reserved_field_refused : wellFormedWord 0x2164000000C8#48 = false := by decide
theorem test_wf_opcode_zero_refused : wellFormedWord 0x000000000000#48 = false := by decide
theorem test_wf_opcode_twelve_refused : wellFormedWord 0xC00000000000#48 = false := by decide
theorem test_wf_legal_words_taken :
    wellFormedWord 0x100000000000#48 = true ∧ wellFormedWord 0xB0FFFFFFFFFF#48 = true := by decide
theorem test_wf_first_literal_refused : (Asm.add 256 0).wellFormed = false := by decide
theorem test_wf_second_literal_refused : (Asm.add 0 256).wellFormed = false := by decide
theorem test_wf_unary_literal_refused : (Asm.sin 256).wellFormed = false := by decide
theorem test_wf_every_command : (Instr.div 10#8 0#8).wellFormed = true := by decide

/-! ## Decoding: a word for every constructor, fields written out (30_encoding.md R70, R72) -/

-- OP 0001, RSV 0000, B ignored (set to ones), A[31:8] ignored (set to ones), a = 0xA5
theorem test_decode_neg : decode 0x10FFFFFFFFA5#48 = .ok (.neg 0xA5#8) := by decide
-- OP 0010, RSV 0000, b = 0x64, a = 0xC8 (R80's example), A[31:8] set (95 §2.5)
theorem test_decode_add : decode 0x2064FFFFFFC8#48 = .ok (.add 200#8 100#8) := by decide
-- OP 0011, b = 1, a = 0 (R103's example)
theorem test_decode_sub : decode 0x300100000000#48 = .ok (.sub 0#8 1#8) := by decide
-- the first writing of R103's example (90_conflicts.md C9) is SUB 0, 16
theorem test_decode_sub_misplaced : decode 0x301000000000#48 = .ok (.sub 0#8 16#8) := by decide
theorem test_decode_mul : decode 0x40110000000F#48 = .ok (.mul 15#8 17#8) := by decide
theorem test_decode_div : decode 0x5002000000FF#48 = .ok (.div 255#8 2#8) := by decide
theorem test_decode_rem : decode 0x6010000000FF#48 = .ok (.rem 255#8 16#8) := by decide
theorem test_decode_cmp : decode 0x7001000000FF#48 = .ok (.cmp 255#8 1#8) := by decide
theorem test_decode_sin : decode 0x800000000004#48 = .ok (.sin 4#8) := by decide
theorem test_decode_cos : decode 0x900000000020#48 = .ok (.cos 32#8) := by decide
theorem test_decode_torad : decode 0xA000000000FF#48 = .ok (.torad 255#8) := by decide
-- B ignored (95 §2.5)
theorem test_decode_fromrad : decode 0xB0FF3FC90FDB#48 = .ok (.fromrad 0x3FC90FDB#32) := by decide
theorem test_decode_reserved_opcodes :
    decode 0x0#48 = .error (.reservedOpcode 0x0#4) ∧
    decode 0xF00000000000#48 = .error (.reservedOpcode 0xF#4) := by decide
-- RSV is decided first (95 §2.5)
theorem test_decode_reserved_field :
    decode 0x8FF0FFFFFF40#48 = .error (.reservedField 0xF#4) := by decide
theorem test_encode_examples :
    encode (.add 200#8 100#8) = 0x2064000000C8#48 ∧ encode (.sin 64#8) = 0x800000000040#48 ∧
    encode (.fromrad 0x3FC90FDB#32) = 0xB0003FC90FDB#48 := by decide
theorem test_table_word : decodeTableWord 48 0x700000000000 = some (.cmp 0#8 0#8) := by decide

/-! ## One step from reset: RESULT, STATUS and RSP_VALID after a word (95 §2.1 to §2.3, §2.5) -/

/-- RESULT, STATUS and RSP_VALID of an outcome. -/
def registers (o : Host.Outcome State Fault Refusal) : Option (Word × StatusCode × Bool) :=
  match o with
  | .next t => some (t.result, t.status, t.rspValid)
  | _ => none

/-- STATUS and the failure record of an outcome. -/
def failureOf (o : Host.Outcome State Fault Refusal) : Option (StatusCode × List Failure) :=
  match o with
  | .next t => some (t.status, t.failures)
  | _ => none

/-- One step that presents the word, from reset. -/
def stepWord (w : Nat) : Host.Outcome State Fault Refusal := step (State.reset.withFetchWord 48 w)

theorem test_neg_128 : registers (stepWord 0x100000000080) = some (0x80#32, 0#2, true) := by decide
theorem test_neg_1 : registers (stepWord 0x100000000001) = some (0xFF#32, 0#2, true) := by decide
theorem test_add_wraps : registers (stepWord 0x2064FFFFFFC8) = some (0x2C#32, 0#2, true) := by decide
theorem test_sub_wraps : registers (stepWord 0x30FF00000080) = some (0x81#32, 0#2, true) := by decide
theorem test_sub_order : registers (stepWord 0x3064000000C8) = some (0x64#32, 0#2, true) := by decide
theorem test_mul_wraps : registers (stepWord 0x40FF000000FF) = some (0x01#32, 0#2, true) := by decide
theorem test_div : registers (stepWord 0x5002000000FF) = some (0x7F#32, 0#2, true) := by decide
theorem test_div_by_zero :
    failureOf (stepWord 0x50000000000A) = some (1#2, [.divzero]) := by decide
theorem test_rem : registers (stepWord 0x600700000064) = some (0x02#32, 0#2, true) := by decide
theorem test_rem_by_zero :
    failureOf (stepWord 0x600000000000) = some (1#2, [.divzero]) := by decide
theorem test_cmp_gt_across_the_seam :
    registers (stepWord 0x7001000000FF) = some (4#32, 0#2, true) := by decide
theorem test_cmp_lt_and_eq :
    registers (stepWord 0x70FF00000000) = some (2#32, 0#2, true) ∧
    registers (stepWord 0x700700000007) = some (1#32, 0#2, true) := by decide
theorem test_sin_193 : registers (stepWord 0x8000000000C1) = some (0xBF7FEC43#32, 0#2, true) := by
  decide
theorem test_sin_128_is_negative_zero :
    registers (stepWord 0x800000000080) = some (0x80000000#32, 0#2, true) := by decide
theorem test_cos_63 : registers (stepWord 0x90000000003F) = some (0x3CC90AB0#32, 0#2, true) := by
  decide
theorem test_cos_191 : registers (stepWord 0x9000000000BF) = some (0xBCC90AB0#32, 0#2, true) := by
  decide
theorem test_torad_255 : registers (stepWord 0xA000000000FF) = some (0x40C846CB#32, 0#2, true) := by
  decide
-- −π/2: the product is −255.00002, and −255 wraps to 1
theorem test_fromrad_negative :
    registers (stepWord 0xB000BFC90FDB) = some (1#32, 0#2, true) := by decide
theorem test_fromrad_tie_and_nan :
    registers (stepWord 0xB0003B49D9B4) = some (1#32, 0#2, true) ∧
    registers (stepWord 0xB000FFC00000) = some (0#32, 0#2, true) := by decide
theorem test_illegal_before_divzero :
    failureOf (stepWord 0x510000000000) = some (2#2, [.illegal]) := by decide

/-! ## binary32 (95 §2.3.1) -/

theorem test_fmul_subnormal : fmul 0x80000001#32 0x4322568A#32 = 0x800000A2#32 := by decide
theorem test_fmul_rounds : fmul 0x3FC90FDB#32 0x4322568A#32 = 0x437F0001#32 := by decide
theorem test_rounding_modes :
    roundToInt .halfAwayFromZero 0xBF000000#32 = -1 ∧ roundToInt .halfEven 0xBF000000#32 = 0 ∧
    roundToInt .halfEven 0x3FC00000#32 = 2 ∧ roundToInt .towardZero 0xBFC00000#32 = -1 := by decide

/-! ## Host events (70_reset_and_hazards.md, 60_exceptions.md) -/

/-- One step of the event, from a state. -/
def stepEvent (e : HostEvent) (s : State) : Host.Outcome State Fault Refusal :=
  step (withInputs s [e])

/-- A state after one response: RESULT 7, STATUS OK. -/
def afterResponse : State := completeOk 7#32 State.reset

theorem test_reset_beats_command :
    registers (stepEvent (.edge { rst := true, cmdValid := true, cmd := 0x800000000040#48 })
      afterResponse) = some (0#32, 0#2, false) := by decide
theorem test_idle_holds_result :
    registers (stepEvent (.edge { rst := false, cmdValid := false, cmd := 0x800000000040#48 })
      afterResponse) = some (7#32, 0#2, false) := by decide
theorem test_stopped_clock_holds :
    registers (stepEvent .clockStopped afterResponse) = some (7#32, 0#2, true) := by decide

/-- What the host has read. -/
def samplesOf (o : Host.Outcome State Fault Refusal) : Option (List HostRead) :=
  match o with
  | .next t => some t.samples
  | _ => none

theorem test_read_before_response_is_recorded_without_value :
    samplesOf (stepEvent .sample State.reset) = some [.early false] := by decide
theorem test_poll_before_response_is_no_failure :
    samplesOf (stepEvent .pollValid State.reset) = some [.valid false] := by decide
theorem test_read_after_response :
    samplesOf (stepEvent .sample afterResponse) =
      some [.response { valid := true, result := 7#32, status := 0#2 }] := by decide

/-! ## The assembler (30_encoding.md R79 to R81) -/

theorem test_assemble_add_text :
    assembleText "ADD 200, 100".toList = some [0x2064000000C8#48] := by decide
theorem test_assemble_hex_angle :
    assembleText "SUB 0x00, 0xFF".toList = some [0x30FF00000000#48] := by decide
theorem test_assemble_pattern :
    assembleText "FROMRAD 0x3FC90FDB".toList = some [0xB0003FC90FDB#48] := by decide
theorem test_assemble_nan : assembleText "FROMRAD nan".toList = some [0xB0007FC00000#48] := by decide
-- the values and patterns of 95 §2.3.1
theorem test_assemble_decimal :
    assembleText "FROMRAD 0.01".toList = some [0xB0003C23D70A#48] ∧
    assembleText "FROMRAD -1e6".toList = some [0xB000C9742400#48] := by decide
theorem test_assemble_polar :
    assembleText "POLAR 32".toList = some [0x900000000020#48, 0x800000000020#48] := by decide
theorem test_assemble_one : assembleText "ONE".toList = some [0x200000000001#48] := by decide
theorem test_assemble_refuses :
    assembleText "NEG 256".toList = none ∧ assembleText "FROMRAD 1".toList = none ∧
    assembleText "ADD 1".toList = none := by decide

/-! ## Witnesses: the hypotheses of each statement can be met -/

/-- A state that presents a word next. -/
def presenting (w : CmdWord) : State := withInputs afterResponse [present w]

theorem witness_reset_edge_with_command_then_read : ∃ s : State, ∃ t,
    s.inputs = .edge { rst := true, cmdValid := true, cmd := 0x800000000040#48 } :: [.sample] ∧
      step s = .next t := ⟨withInputs afterResponse _, _, rfl, rfl⟩

theorem witness_presenting (w : CmdWord) : (presenting w).booted = true ∧
    (presenting w).inputs = .edge { rst := false, cmdValid := true, cmd := w } :: [] := ⟨rfl, rfl⟩

theorem witness_edge_reset_accept_idle : ∃ s₁ s₂ s₃ : State, ∃ p₁ p₂ p₃,
    (s₁.inputs = .edge p₁ :: [] ∧ p₁.rst = true) ∧
    (s₂.inputs = .edge p₂ :: [] ∧ s₂.booted = true ∧ p₂.rst = false ∧ p₂.cmdValid = true) ∧
    (s₃.inputs = .edge p₃ :: [] ∧ s₃.booted = true ∧ p₃.rst = false ∧ p₃.cmdValid = false) :=
  ⟨withInputs State.reset [.edge ⟨true, true, 0⟩], withInputs State.reset [.edge ⟨false, true, 0⟩],
    withInputs State.reset [.edge ⟨false, false, 0⟩], _, _, _, ⟨rfl, rfl⟩, ⟨rfl, rfl, rfl, rfl⟩,
    ⟨rfl, rfl, rfl, rfl⟩⟩

theorem witness_step_runs_both_clauses :
    decode 0x2064000000C8#48 = .ok (.add 200#8 100#8) ∧
    decode 0xC00000000000#48 = .error (.reservedOpcode 0xC#4) := by decide

theorem witness_presented_step (w : CmdWord) : ∃ t, step (presenting w) = .next t := by
  unfold presenting step withInputs present
  show ∃ t, clockEdge _ _ = .next t
  unfold clockEdge acceptWord
  simp only [Bool.false_eq_true, ↓reduceIte, Bool.not_true, afterResponse, completeOk, State.reset]
  cases decode w with
  | ok i => cases i <;> exact ⟨_, rfl⟩
  | error e => exact ⟨_, rfl⟩

theorem witness_host_read : ∃ s₁ s₂ s₃ : State,
    (s₁.inputs = [.sample] ∧ s₁.Inv ∧ s₁.booted = true ∧ s₁.responded = false) ∧
    (s₂.inputs = [.sample] ∧ s₂.responded = true) ∧ s₃.inputs = [.pollValid] :=
  ⟨withInputs State.reset [.sample], withInputs afterResponse [.sample],
    withInputs State.reset [.pollValid],
    ⟨rfl, ⟨fun _ => by decide, fun _ _ => by decide, fun _ h => absurd rfl h, fun h => by cases h⟩, rfl, rfl⟩,
    ⟨rfl, rfl⟩, rfl⟩

theorem witness_no_edge : ∃ s t : State, step s = .next t ∧
    (∀ p, s.inputs.head? ≠ some (.edge p)) ∧ s.inputs.head? ≠ some .powerOn ∧
    s.inputs.head? = some .sample :=
  ⟨withInputs afterResponse [.sample], _, rfl, by simp [withInputs], by simp [withInputs], rfl⟩

theorem witness_stopped_clock : (withInputs State.reset [.clockStopped]).inputs = .clockStopped :: [] :=
  rfl

theorem witness_unstable_edge : (withInputs State.reset [.unstableEdge]).inputs = .unstableEdge :: [] :=
  rfl

theorem witness_power_up : ∃ s : State, ∃ es : List PortInputs, ∃ r : PortInputs,
    es ≠ [] ∧ (∀ p ∈ es, p.rst = false) ∧ r.rst = true ∧
      s.inputs = .powerOn :: (es.map .edge ++ .edge r :: []) :=
  ⟨withInputs afterResponse [.powerOn, .edge ⟨false, true, 0⟩, .edge ⟨true, false, 0⟩],
    [⟨false, true, 0⟩], ⟨true, false, 0⟩, by simp, by simp, rfl, rfl⟩

theorem witness_every_word_clauses :
    wellFormedWord 0xB0FFFFFFFFFF#48 = true ∧ (0x010000000000#48).toNat / 2 ^ 40 % 16 ≠ 0 ∧
    ((0xC00000000000#48).toNat / 2 ^ 40 % 16 = 0 ∧ wellFormedWord 0xC00000000000#48 = false) := by
  decide

/-- Two words of each shape that differ in the ignored bits only. -/
theorem witness_ignored_bits :
    ((0x10FFFFFFFF05#48).toNat / 2 ^ 40 = (0x100000000005#48).toNat / 2 ^ 40 ∧
      (0x10FFFFFFFF05#48).toNat % 2 ^ 8 = (0x100000000005#48).toNat % 2 ^ 8 ∧
      (0x10FFFFFFFF05#48).toNat / 2 ^ 44 = 1) ∧
    ((0x7003FFFFFF05#48).toNat / 2 ^ 40 = (0x700300000005#48).toNat / 2 ^ 40 ∧
      (0x7003FFFFFF05#48).toNat / 2 ^ 32 % 256 = (0x700300000005#48).toNat / 2 ^ 32 % 256) ∧
    ((0xB0FF3FC90FDB#48).toNat / 2 ^ 40 = (0xB0003FC90FDB#48).toNat / 2 ^ 40 ∧
      (0xB0FF3FC90FDB#48).toNat % 2 ^ 32 = (0xB0003FC90FDB#48).toNat % 2 ^ 32) := by decide

theorem witness_illegal_both_sides :
    ((0xF00000000000#48).toNat / 2 ^ 44 ∈ [0x0, 0xC, 0xD, 0xE, 0xF]) ∧
    ((0x1F0000000000#48).toNat / 2 ^ 40 % 16 ≠ 0) ∧
    ¬ ((0xB00000000000#48).toNat / 2 ^ 44 ∈ [0x0, 0xC, 0xD, 0xE, 0xF]) := by decide

theorem witness_divzero_word :
    (0x6000FFFFFFFF#48).toNat / 2 ^ 40 % 16 = 0 ∧
    (0x6000FFFFFFFF#48).toNat / 2 ^ 44 ∈ [0x5, 0x6] ∧
    (0x6000FFFFFFFF#48).toNat / 2 ^ 32 % 256 = 0 := by decide

theorem witness_illegal_before_divzero :
    (0x510000000000#48).toNat / 2 ^ 44 ∈ [0x5, 0x6] ∧
    (0x510000000000#48).toNat / 2 ^ 32 % 256 = 0 ∧
    (0x510000000000#48).toNat / 2 ^ 40 % 16 ≠ 0 := by decide

/-- For every opcode, a word with B and A[31:8] all ones. -/
theorem witness_command_words :
    (0x10FFFFFFFFFF#48).toNat / 2 ^ 40 = 0x10 ∧ (0x20FFFFFFFFFF#48).toNat / 2 ^ 40 = 0x20 ∧
    (0x30FFFFFFFFFF#48).toNat / 2 ^ 40 = 0x30 ∧ (0x40FFFFFFFFFF#48).toNat / 2 ^ 40 = 0x40 ∧
    (0x50FFFFFFFFFF#48).toNat / 2 ^ 40 = 0x50 ∧ (0x60FFFFFFFFFF#48).toNat / 2 ^ 40 = 0x60 ∧
    (0x70FFFFFFFFFF#48).toNat / 2 ^ 40 = 0x70 ∧ (0x80FFFFFFFFFF#48).toNat / 2 ^ 40 = 0x80 ∧
    (0x90FFFFFFFFFF#48).toNat / 2 ^ 40 = 0x90 ∧ (0xA0FFFFFFFFFF#48).toNat / 2 ^ 40 = 0xA0 ∧
    (0xB0FFFFFFFFFF#48).toNat / 2 ^ 40 = 0xB0 := by decide

theorem witness_nonzero_divisors : (1#8).toNat ≠ 0 ∧ (255#8).toNat ≠ 0 := by decide

theorem witness_order_transitive :
    wordOf (.cmp 1#8 2#8) State.reset = some 2#32 ∧ wordOf (.cmp 2#8 3#8) State.reset = some 2#32 := by
  decide

theorem witness_default_tables : State.reset.sinRom = defaultSinRom ∧
    State.reset.radRom = defaultRadRom ∧ State.reset.params = defaultParams := ⟨rfl, rfl, rfl⟩

theorem witness_step_answers : ∃ s t : State, s.Inv ∧ step s = .next t ∧ s.inputs ≠ [] :=
  ⟨withInputs State.reset [.edge ⟨false, false, 0⟩], _,
    ⟨fun _ => by decide, fun _ _ => by decide, fun _ h => absurd rfl h, fun h => by cases h⟩, rfl, by simp [withInputs]⟩

theorem witness_rom_words_agree : State.reset.sinRom[(64 : Fin 65)] = afterResponse.sinRom[(64 : Fin 65)] ∧
    State.reset.radRom[(255#8).toNat] = afterResponse.radRom[(255#8).toNat] := ⟨rfl, rfl⟩

theorem witness_no_rom_command :
    (∀ a, Instr.neg 1#8 ≠ .sin a ∧ Instr.neg 1#8 ≠ .cos a ∧ Instr.neg 1#8 ≠ .torad a) ∧
    State.reset.params = afterResponse.params ∧
    ∃ t t', exec (.neg 1#8) State.reset = .next t ∧ exec (.neg 1#8) afterResponse = .next t' :=
  ⟨by simp, rfl, _, _, rfl, rfl⟩

theorem witness_finite_operands : isFinite 0x00000001#32 = true ∧ isFinite 0xFF7FFFFF#32 = true := by
  decide

/-- Operands whose product is 2^82 below 2^128 - 2^103, from where a product is infinite (00_scope.md R11),
and operands whose product is exactly it. -/
theorem witness_product_bound :
    (isFinite 0x5F09B29A#32 = true ∧ isFinite 0x5FEDF87B#32 = true ∧
      |val 0x5F09B29A#32 * val 0x5FEDF87B#32| < 2 ^ 128 - 2 ^ 103) ∧
    (isFinite 0x5AF80000#32 = true ∧ isFinite 0xE4042108#32 = true ∧
      2 ^ 128 - 2 ^ 103 ≤ |val 0x5AF80000#32 * val 0xE4042108#32|) := by
  have h₁ : signedUnits 0x5F09B29A#32 = 9024154 * 2 ^ 189 := by decide
  have h₂ : signedUnits 0x5FEDF87B#32 = 15595643 * 2 ^ 190 := by decide
  have h₃ : signedUnits 0x5AF80000#32 = 31 * 2 ^ 199 := by decide
  have h₄ : signedUnits 0xE4042108#32 = -(1082401 * 2 ^ 202) := by decide
  refine ⟨⟨by decide, by decide, ?_⟩, by decide, by decide, ?_⟩
  · rw [val_eq_signedUnits, val_eq_signedUnits, h₁, h₂]
    norm_num
  · rw [val_eq_signedUnits, val_eq_signedUnits, h₃, h₄]
    norm_num

theorem witness_nonfinite_operand_and_product : isFinite 0x7F800000#32 = false ∧
    isFinite 0x7F7FFFFF#32 = true ∧
    fmul 0x7F7FFFFF#32 State.reset.params.radScale &&& 0x7FFFFFFF#32 = 0x7F800000#32 := by
  decide +kernel

/-- The first |x| whose product overflows, and the last that does not (42_conversion.md R152). -/
theorem witness_overflow_boundary :
    isFinite (fmul 0x7BC9D9B4#32 defaultParams.radScale) = false ∧
    isFinite (fmul 0xFBC9D9B3#32 defaultParams.radScale) = true := by decide +kernel

theorem witness_tiny_operands : ((0x807FFFFF#32).extractLsb' 23 8).toNat = 0 ∧
    isFinite 0x00000001#32 = true ∧
    ((fmul 0x00000001#32 defaultParams.radScale).extractLsb' 23 8).toNat = 0 ∧
    (0x3B49D9B3#32).toNat < 0x3B49D9B4 := by decide

theorem witness_tiny_product :
    |val (fmul 0x00000000#32 defaultParams.radScale)| < 1 / 2 := by
  have h : fmul 0x00000000#32 defaultParams.radScale = 0x00000000#32 := by decide
  rw [h]
  norm_num [val]

theorem witness_large_operand : isFinite 0xCB49D9B4#32 = true ∧
    0x4B49D9B4 ≤ (0xCB49D9B4#32).toNat % 2 ^ 31 ∧
    isFinite (fmul 0xCB49D9B4#32 defaultParams.radScale) = true := by decide

theorem witness_large_product : 2 ^ 24 ≤ |val 0x4F000000#32| ∧ 2 ^ 31 ≤ |val 0x4F000000#32| := by
  have h : signedUnits 0x4F000000#32 = 2 ^ 180 := by decide
  rw [val_eq_signedUnits, h]
  norm_num

theorem witness_negative_products :
    roundToInt defaultParams.fromradRound (fmul 0xBF800000#32 defaultParams.radScale) = -162 ∧
    roundToInt defaultParams.fromradRound (fmul 0xBBC9D9B4#32 defaultParams.radScale) = -1 := by decide

/-- A step that accepts no word, and one after which no failure is recorded. -/
theorem witness_no_word_accepted : ∃ s t : State, step s = .next t ∧ NoFailureRecorded t ∧
    ¬ ∃ (w : CmdWord) (rest : List HostEvent), s.booted = true ∧
      s.inputs = .edge { rst := false, cmdValid := true, cmd := w } :: rest :=
  ⟨withInputs State.reset [.edge ⟨false, false, 0⟩], _, rfl, ⟨rfl, by simp [idle, withInputs, State.reset]⟩,
    by simp [withInputs]⟩

theorem witness_exec_answers (i : Instr) (s : State) : ∃ t, exec i s = .next t := by
  cases i <;> exact ⟨_, rfl⟩

theorem witness_failure_status_ok : ∃ s t : State,
    exec (.fromrad 0x7FC00000#32) s = .next t ∧ t.status = 0b00#2 := ⟨State.reset, _, rfl, rfl⟩

theorem witness_quiet_events : ∃ s : State, ∃ es : List HostEvent, s.booted = true ∧ es.length = 2 ∧
    (∀ e ∈ es, quiet e = true) ∧
    s.inputs = es ++ .edge { rst := false, cmdValid := true, cmd := 0x800000000040#48 } :: [] :=
  ⟨withInputs afterResponse [.clockStopped, .edge ⟨false, false, 0⟩, present 0x800000000040#48],
    [.clockStopped, .edge ⟨false, false, 0⟩], rfl, rfl, by simp [quiet], rfl⟩

theorem witness_back_to_back : ∃ s : State, ∃ ws : List CmdWord, s.booted = true ∧
    s.inputs = ws.map (fun w => .edge { rst := false, cmdValid := true, cmd := w }) ++ [] ∧
    0 < ws.length :=
  ⟨withInputs afterResponse [present 0x50000000000A#48, present 0x60030000000A#48],
    [0x50000000000A#48, 0x60030000000A#48], rfl, rfl, by decide⟩

theorem witness_literals_out_of_range : 255 < 256 ∧ 255 ≤ 255 := by decide

theorem witness_cmp_word : wordOf (.cmp 255#8 1#8) State.reset = some 4#32 := by decide

theorem witness_sin_rom_constraints : SinRomConstraints State.reset.sinRom :=
  sinRomConstraints_of_check (by decide +kernel)

/-- The reference default ends in 1.0, starts with +0.0 and has no other zero. -/
theorem witness_sin_rom : val (sinRomAt State.reset 64) = 1 ∧
    sinRomAt State.reset 0 = 0x00000000#32 ∧
    ∀ i, 1 ≤ i → i ≤ 64 → val (sinRomAt State.reset i) ≠ 0 := by
  refine ⟨witness_sin_rom_constraints.last, by decide, fun i h₁ h₂ h => ?_⟩
  have hz : ∀ i : Fin 65, 1 ≤ i.val → signedUnits (sinRomAt State.reset i.val) ≠ 0 := by
    decide +kernel
  rw [val_eq_signedUnits, div_eq_zero_iff] at h
  rcases h with h | h
  · exact hz ⟨i, by omega⟩ h₁ (by exact_mod_cast h)
  · norm_num at h

theorem witness_sin_monotone_operands : (0#8).toNat < (63#8).toNat ∧ (63#8).toNat ≤ 63 ∧
    ∃ x y, wordOf (.sin 0#8) State.reset = some x ∧ wordOf (.sin 63#8) State.reset = some y :=
  ⟨by decide, by decide, _, _, rfl, rfl⟩

end Sys2Proof.Tests
end

/-! SUPPORT. R12 and R16 of 00_scope.md: what the three roundings to an integer give, and that an accepted
word's response depends on the word, the ROMs and the parameters alone. -/

namespace Sys2Proof.Machine

/-! ## Sign and magnitude of a value and of the integer it rounds to -/

/-- Rounding works on the magnitude; the integer and the value carry the same sign. -/
theorem roundToInt_and_val_share_sign (m : RoundMode) (w : Word) :
    (roundToInt m w = (roundQuotient m (magnitude w) unitsPerOne : ℤ) ∧
      val w = (magnitude w : ℚ) / unitsPerOne) ∨
    (roundToInt m w = -(roundQuotient m (magnitude w) unitsPerOne : ℤ) ∧
      val w = -((magnitude w : ℚ) / unitsPerOne)) := by
  have hone : (unitsPerOne : ℚ) = 2 ^ 149 := by norm_num [unitsPerOne]
  rw [val_eq_signedUnits, hone]
  cases hs : signBit w
  · exact .inl (by simp [roundToInt, signedUnits, hs])
  · exact .inr (by simp [roundToInt, signedUnits, hs, neg_div])

theorem abs_val (w : Word) : |val w| = (magnitude w : ℚ) / unitsPerOne := by
  have hpos : (0 : ℚ) ≤ (magnitude w : ℚ) / unitsPerOne := by positivity
  rcases roundToInt_and_val_share_sign .towardZero w with ⟨-, hv⟩ | ⟨-, hv⟩
  · rw [hv, abs_of_nonneg hpos]
  · rw [hv, abs_neg, abs_of_nonneg hpos]

theorem abs_roundToInt (m : RoundMode) (w : Word) :
    |(roundToInt m w : ℚ)| = roundQuotient m (magnitude w) unitsPerOne := by
  rcases roundToInt_and_val_share_sign m w with ⟨hr, -⟩ | ⟨hr, -⟩ <;> simp [hr]

theorem abs_roundToInt_sub_val (m : RoundMode) (w : Word) :
    |(roundToInt m w : ℚ) - val w| =
      |(roundQuotient m (magnitude w) unitsPerOne : ℚ) - (magnitude w : ℚ) / unitsPerOne| := by
  rcases roundToInt_and_val_share_sign m w with ⟨hr, hv⟩ | ⟨hr, hv⟩
  · rw [hr, hv, Int.cast_natCast]
  · rw [hr, hv, Int.cast_neg, Int.cast_natCast, neg_sub_neg, abs_sub_comm]

theorem roundToInt_mul_val_nonneg (m : RoundMode) (w : Word) :
    0 ≤ (roundToInt m w : ℚ) * val w := by
  have hpos : (0 : ℚ) ≤ roundQuotient m (magnitude w) unitsPerOne *
      ((magnitude w : ℚ) / unitsPerOne) := by positivity
  rcases roundToInt_and_val_share_sign m w with ⟨hr, hv⟩ | ⟨hr, hv⟩
  · simpa [hr, hv] using hpos
  · simpa [hr, hv] using hpos

theorem roundToInt_even {m : RoundMode} {w : Word}
    (h : roundQuotient m (magnitude w) unitsPerOne % 2 = 0) : roundToInt m w % 2 = 0 := by
  rcases roundToInt_and_val_share_sign m w with ⟨hr, -⟩ | ⟨hr, -⟩ <;> omega

/-! ## The rounded quotient against the exact one -/

theorem sub_half_le_quotient {num den n : Nat} (h : 0 < den)
    (hn : 2 * (n * den) ≤ 2 * num + den) : (n - 1 / 2 : ℚ) ≤ num / den := by
  rw [le_div_iff₀ (by exact_mod_cast h)]
  have : (2 * (n * den) : ℚ) ≤ 2 * num + den := by exact_mod_cast hn
  linarith

/-- Half away from zero: within one half, and above the quotient at a tie. -/
theorem roundQuotient_halfAwayFromZero_near {num den : Nat} (h : 0 < den) :
    |(roundQuotient .halfAwayFromZero num den : ℚ) - num / den| ≤ 1 / 2 ∧
      (|(roundQuotient .halfAwayFromZero num den : ℚ) - num / den| = 1 / 2 →
        (num / den : ℚ) < roundQuotient .halfAwayFromZero num den) := by
  obtain ⟨hlt, hle⟩ := roundQuotient_halfAwayFromZero (num := num) h
  generalize roundQuotient .halfAwayFromZero num den = n at hlt hle ⊢
  have hd : (0 : ℚ) < den := by exact_mod_cast h
  have hlt' : (num / den : ℚ) < n + 1 / 2 := by
    rw [div_lt_iff₀ hd]
    have : (2 * num : ℚ) < 2 * (n * den) + den := by exact_mod_cast hlt
    linarith
  have hle' := sub_half_le_quotient h hle
  refine ⟨abs_le.2 ⟨by linarith, by linarith⟩, fun htie => ?_⟩
  rcases (abs_eq (by norm_num)).1 htie with hup | hdown <;> linarith

/-- Half to even: within one half, and even at a tie. -/
theorem roundQuotient_halfEven_near {num den : Nat} (h : 0 < den) :
    |(roundQuotient .halfEven num den : ℚ) - num / den| ≤ 1 / 2 ∧
      (|(roundQuotient .halfEven num den : ℚ) - num / den| = 1 / 2 →
        roundQuotient .halfEven num den % 2 = 0) := by
  obtain ⟨hlow, hhigh, heven⟩ := roundQuotient_halfEven (num := num) h
  generalize roundQuotient .halfEven num den = n at hlow hhigh heven ⊢
  have hd : (0 : ℚ) < den := by exact_mod_cast h
  have hlow' : (num / den : ℚ) ≤ n + 1 / 2 := by
    rw [div_le_iff₀ hd]
    have : (2 * num : ℚ) ≤ 2 * (n * den) + den := by exact_mod_cast hlow
    linarith
  have hhigh' := sub_half_le_quotient h hhigh
  refine ⟨abs_le.2 ⟨by linarith, by linarith⟩, fun htie => heven ?_⟩
  rcases (abs_eq (by norm_num)).1 htie with hup | hdown
  · right
    have hq : (num / den : ℚ) = n - 1 / 2 := by linarith
    rw [div_eq_iff hd.ne'] at hq
    have : (2 * (n * den) : ℚ) = 2 * num + den := by linarith
    exact_mod_cast this
  · left
    have hq : (num / den : ℚ) = n + 1 / 2 := by linarith
    rw [div_eq_iff hd.ne'] at hq
    have : (2 * num : ℚ) = 2 * (n * den) + den := by linarith
    exact_mod_cast this

/-- Toward zero: the quotient lies in the unit interval that starts at the rounded one. -/
theorem roundQuotient_towardZero_floor {num den : Nat} (h : 0 < den) :
    (roundQuotient .towardZero num den : ℚ) ≤ num / den ∧
      (num / den : ℚ) < roundQuotient .towardZero num den + 1 := by
  have hd : (0 : ℚ) < den := by exact_mod_cast h
  rw [roundQuotient_towardZero]
  refine ⟨Nat.cast_div_le, ?_⟩
  rw [div_lt_iff₀ hd]
  exact_mod_cast Nat.lt_mul_of_div_lt (Nat.lt_succ_self (num / den)) h

theorem unitsPerOne_pos : 0 < unitsPerOne := by simp [unitsPerOne]

/-- Settles O41: sign and magnitude separate, and the magnitude is the rounded quotient. -/
theorem roundingToIntegerAsNamed : Obligations.RoundingToIntegerAsNamed := by
  intro w _
  simp only [abs_roundToInt_sub_val, abs_val, abs_roundToInt]
  obtain ⟨heven, htie⟩ := roundQuotient_halfEven_near (num := magnitude w) unitsPerOne_pos
  obtain ⟨hfloor, hlt⟩ := roundQuotient_towardZero_floor (num := magnitude w) unitsPerOne_pos
  exact ⟨roundQuotient_halfAwayFromZero_near unitsPerOne_pos,
    ⟨heven, fun h => roundToInt_even (htie h)⟩,
    hfloor, hlt, roundToInt_mul_val_nonneg _ _⟩

/-! ## The response to an accepted word -/

/-- The step at which a machine that has been reset accepts the word `w`. -/
theorem step_accept {s t : State} {w : CmdWord} {rest : List HostEvent} (hb : s.booted = true)
    (hi : s.inputs = .edge { rst := false, cmdValid := true, cmd := w } :: rest)
    (h : step s = .next t) : t = respond (wordOutcome w s) (withInputs s rest) := by
  have hedge : step s = .next (respond (wordOutcome w (withInputs s rest)) (withInputs s rest)) := by
    rw [step_cons hi]
    exact clockEdge_accept rfl hb rfl
  rw [hedge, wordOutcome_withInputs] at h
  injection h with h
  exact h.symm

/-- Two machines that take the same outcome show the same response, but for RESULT after a failure. -/
theorem respond_registers_agree (o : CmdOutcome) (s s' : State) :
    (respond o s).status = (respond o s').status ∧
      (respond o s).rspValid = (respond o s').rspValid ∧
      ((respond o s).status = 0b00#2 → (respond o s).result = (respond o s').result) := by
  cases o with
  | ok r => simp
  | raised f => cases f <;> simp [Failure.code, Status.divzero, Status.illegal]

/-- Settles O48: both machines take the outcome of the word, which the registers, the records and the
events to come do not enter. -/
theorem outcomesArePure : Obligations.OutcomesArePure := by
  intro s s' t t' w rest rest' hb hb' ⟨hsin, hrad, hparams⟩ hi hi' h h'
  rw [step_accept hb hi h, step_accept hb' hi' h', wordOutcome_congr w hsin hrad hparams]
  exact respond_registers_agree _ _ _

end Sys2Proof.Machine

/-! SUPPORT. R26, R29 and R39 of 10_state.md: RSP_VALID after an edge, the ROMs and parameters that no step
writes, and the output ports, which move at edges and power-up alone. -/

namespace Sys2Proof.Machine

/-! ## The ROMs and the parameters -/

/-- A command's response leaves the ROMs and the parameters alone, whatever its outcome. -/
theorem respond_sameTables (o : CmdOutcome) (s : State) : Claims.SameTables s (respond o s) :=
  ⟨respond_sinRom o s, respond_radRom o s, respond_params o s⟩

/-- Settles O36: a command's response is the only operation of a step whose form depends on an outcome;
the others name the fields they write, and no ROM and no parameter is among them. -/
theorem nothingWritesTheRoms : Obligations.NothingWritesTheRoms := by
  intro s t h
  obtain ⟨-, rfl⟩ | ⟨e, rest, -, hreset | hdraw | haccept | hidle | hpoll | hsample |
      hstop | hpower⟩ := step_cases h
  · exact ⟨rfl, rfl, rfl⟩
  · obtain ⟨p, -, -, rfl⟩ := hreset
    exact ⟨rfl, rfl, rfl⟩
  · obtain ⟨p, -, -, -, rfl⟩ := hdraw
    exact ⟨rfl, rfl, rfl⟩
  · obtain ⟨p, -, -, -, -, rfl⟩ := haccept
    exact respond_sameTables _ (withInputs s rest)
  · obtain ⟨p, -, -, -, -, rfl⟩ := hidle
    exact ⟨rfl, rfl, rfl⟩
  · obtain ⟨-, rfl⟩ := hpoll
    exact ⟨rfl, rfl, rfl⟩
  · obtain ⟨-, rfl⟩ := hsample
    exact ⟨rfl, rfl, rfl⟩
  · obtain ⟨-, rfl⟩ := hstop
    exact ⟨rfl, rfl, rfl⟩
  · obtain ⟨-, rfl⟩ := hpower
    exact ⟨rfl, rfl, rfl⟩

/-! ## The output ports -/

/-- The ports show the three registers and nothing else. -/
theorem responsePorts_congr {s t : State} (hv : t.rspValid = s.rspValid) (hr : t.result = s.result)
    (hs : t.status = s.status) : responsePorts t = responsePorts s := by
  simp only [responsePorts, hv, hr, hs]

@[simp] theorem responsePorts_withInputs (s : State) (es : List HostEvent) :
    responsePorts (withInputs s es) = responsePorts s := responsePorts_congr rfl rfl rfl

@[simp] theorem responsePorts_recordRead (r : HostRead) (s : State) :
    responsePorts (recordRead r s) = responsePorts s := responsePorts_congr rfl rfl rfl

/-- A host event that is neither a rising edge nor power-up leaves the ports as they are. -/
theorem hostEvent_keeps_ports {e : HostEvent} {s t : State} (h : hostEvent e s = .next t)
    (hedge : ∀ p, e ≠ .edge p) (hpower : e ≠ .powerOn) : responsePorts t = responsePorts s := by
  cases e with
  | edge p => exact absurd rfl (hedge p)
  | unstableEdge => cases h
  | pollValid => cases h; exact responsePorts_recordRead _ _
  | sample => cases h; exact responsePorts_recordRead _ _
  | clockStopped => cases h; rfl
  | powerOn => exact absurd rfl hpower

/-- Settles O59: the ports are read off the registers, and only edges and power-up write those. -/
theorem outputPortsAreTheRegisters : Obligations.OutputPortsAreTheRegisters := by
  refine ⟨fun s es => ⟨rfl, rfl, rfl, responsePorts_withInputs s es⟩, fun s t h hedge hpower => ?_⟩
  cases hi : s.inputs with
  | nil =>
    rw [step_nil hi] at h
    injection h with h
    rw [h]
  | cons e rest =>
    rw [step_cons hi] at h
    simp only [hi, List.head?_cons, ne_eq, Option.some.injEq] at hedge hpower
    rw [hostEvent_keeps_ports h hedge hpower, responsePorts_withInputs]

/-! ## RSP_VALID after an edge -/

/-- An edge of a machine that has been reset raises RSP_VALID where it accepts a command: reset comes
first, and an edge without a command lowers it (R38). -/
theorem clockEdge_rspValid_iff {p : PortInputs} {s t : State} (hb : s.booted = true)
    (h : clockEdge p s = .next t) : t.rspValid = true ↔ p.rst = false ∧ p.cmdValid = true := by
  cases hr : p.rst with
  | true =>
    rw [clockEdge_rst hr] at h
    cases h
    simp
  | false =>
    cases hv : p.cmdValid with
    | true =>
      rw [clockEdge_accept hr hb hv] at h
      cases h
      simp
    | false =>
      rw [clockEdge_idle hr hb hv] at h
      cases h
      simp

/-- Settles O5: the step takes the edge off the list, and the edge alone decides RSP_VALID. -/
theorem validExactlyAfterAcceptance : Obligations.ValidExactlyAfterAcceptance := by
  intro s t p rest hb hi h
  rw [step_cons hi] at h
  exact clockEdge_rspValid_iff (s := withInputs s rest) hb h

end Sys2Proof.Machine

/-! SUPPORT. R75, R76, R80 and R81 of 30_encoding.md: the words commands assemble to, the words that are no
command, the formats of the results, and the pseudo-instructions with the host's tests of CMP. -/

namespace Sys2Proof.Machine

open Claims

/-! ## The word of a command -/

@[simp] theorem toNat_zext32 (a : Angle) : (zext32 a).toNat = a.toNat := by
  have := a.isLt
  rw [zext32, BitVec.toNat_setWidth]
  omega

theorem toNat_zext32_lt (a : Angle) : (zext32 a).toNat < 256 := by
  rw [toNat_zext32]
  exact a.isLt

/-- The word of a command that reads A and B. -/
theorem toNat_commandWord_binary (op : BitVec 4) (a b : Angle) :
    (commandWord op b (zext32 a)).toNat = op.toNat * 2 ^ 44 + b.toNat * 2 ^ 32 + a.toNat := by
  rw [Laws.EncodedForm.toNat_commandWord, toNat_zext32]

/-- The word of a command that does not read B. -/
theorem toNat_commandWord_unary (op : BitVec 4) (x : Word) :
    (commandWord op 0 x).toNat = op.toNat * 2 ^ 44 + x.toNat := by
  simp [Laws.EncodedForm.toNat_commandWord]

/-- The word of a command that reads the angle A alone. -/
theorem toNat_commandWord_angle (op : BitVec 4) (a : Angle) :
    (commandWord op 0 (zext32 a)).toNat = op.toNat * 2 ^ 44 + a.toNat := by
  rw [toNat_commandWord_unary, toNat_zext32]

/-- Settles O14: the fields of a command word do not overlap, so the word is their shifted sum. -/
theorem assembledWordIsTheFieldSum : Obligations.AssembledWordIsTheFieldSum := by
  refine ⟨fun a b => ?_, fun x => toNat_commandWord_unary 11#4 x, by decide, by decide, by decide⟩
  exact ⟨toNat_commandWord_angle 1#4 a, toNat_commandWord_binary 2#4 a b,
    toNat_commandWord_binary 3#4 a b, toNat_commandWord_binary 4#4 a b,
    toNat_commandWord_binary 5#4 a b, toNat_commandWord_binary 6#4 a b,
    toNat_commandWord_binary 7#4 a b, toNat_commandWord_angle 8#4 a,
    toNat_commandWord_angle 9#4 a, toNat_commandWord_angle 10#4 a⟩

/-! ## The words that are no command -/

theorem wellFormedWord_eq (w : CmdWord) :
    wellFormedWord w = (decide (rsvField w = 0#4) &&
      (decide (1 ≤ (opField w).toNat) && decide ((opField w).toNat ≤ 11))) := rfl

/-- The legal words by the word's number: RSV is 0 and OP one of the eleven (R72, R76). -/
theorem wellFormedWord_iff (w : CmdWord) :
    wellFormedWord w = true ↔
      w.toNat / 2 ^ 40 % 16 = 0 ∧ 1 ≤ w.toNat / 2 ^ 44 ∧ w.toNat / 2 ^ 44 ≤ 11 := by
  have := w.isLt
  simp only [wellFormedWord_eq, rsvField, opField, Bool.and_eq_true,
    decide_eq_true_eq, ← BitVec.toNat_inj, Laws.EncodedForm.toNat_field, BitVec.toNat_ofNat]
  omega

/-- The decoder rejects every word that is not legal, and no other: RSV is tested first, then the eleven
opcodes are the arms of its dispatch and every other one falls to the last. -/
theorem decode_error_iff (w : CmdWord) :
    (∃ e, decode w = .error e) ↔ wellFormedWord w = false := by
  rw [wellFormedWord_eq]
  unfold decode
  by_cases hr : rsvField w = 0#4
  · simp only [hr, ne_eq, not_true_eq_false, if_false]
    split
    pick_goal 12
    · have hop : ¬ (1 ≤ (opField w).toNat ∧ (opField w).toNat ≤ 11) := by
        simp only [imp_false, ← BitVec.toNat_inj, BitVec.toNat_ofNat] at *
        omega
      simpa using hop
    all_goals next hop => simp [hop]
  · simp [hr]

/-- STATUS names the outcome ILLEGAL, and no other. -/
theorem respond_status_illegal_iff (o : CmdOutcome) (s : State) :
    (respond o s).status = 0b10#2 ↔ o = .raised .illegal := by
  cases o with
  | ok r => simp [Status.ok]
  | raised f => cases f <;> simp [Failure.code, Status.divzero, Status.illegal]

/-- A decoded command never raises ILLEGAL. -/
theorem wordOutcome_illegal_iff (w : CmdWord) (s : State) :
    wordOutcome w s = .raised .illegal ↔ ∃ e, decode w = .error e := by
  unfold wordOutcome
  cases decode w with
  | error e => simp
  | ok i =>
    have : outcomeOf i s ≠ .raised .illegal := fun h => by cases (outcomeOf_raised h).1
    simp [this]

/-- Settles O16: STATUS is ILLEGAL exactly where the decoder rejects, and it rejects the words that are
not legal. -/
theorem illegalExactlyOnReservedEncodings : Obligations.IllegalExactlyOnReservedEncodings := by
  intro s t w rest hb hi h
  rw [step_accept hb hi h, respond_status_illegal_iff, wordOutcome_illegal_iff, decode_error_iff,
    ← Bool.not_eq_true, wellFormedWord_iff]
  have := w.isLt
  simp only [List.mem_cons, List.not_mem_nil, or_false]
  omega

/-! ## The formats of the results -/

/-- A response with STATUS OK is that of a completed command, its result in RESULT. -/
theorem outcome_of_status_ok {o : CmdOutcome} {s : State} (h : (respond o s).status = 0b00#2) :
    o = .ok (respond o s).result := by
  cases o with
  | ok r => rfl
  | raised f => cases f <;> simp [Failure.code, Status.divzero, Status.illegal] at h

theorem angle_trichotomy (a b : Angle) : a < b ∨ a = b ∨ b < a := by
  rw [BitVec.lt_def, ← BitVec.toNat_inj, BitVec.lt_def]
  exact Nat.lt_trichotomy _ _

theorem orderingWord_of_eq (a : Angle) : orderingWord a a = 1#32 := by
  simp [orderingWord, conditionBit]

theorem orderingWord_of_lt {a b : Angle} (h : a < b) : orderingWord a b = 2#32 := by
  simp [orderingWord, conditionBit, h, BitVec.not_lt.2 (BitVec.le_of_lt h), (BitVec.ne_of_lt h)]

theorem orderingWord_of_gt {a b : Angle} (h : b < a) : orderingWord a b = 4#32 := by
  simp [orderingWord, conditionBit, h, BitVec.not_lt.2 (BitVec.le_of_lt h), (BitVec.ne_of_lt h).symm]

theorem romReadSin_eq (s : State) (i : Fin 65) : romReadSin s i = sinRomAt s i := by
  simp [romReadSin, sinRomAt, Array.getD]

theorem romReadRad_eq (s : State) (a : Angle) : romReadRad s a = radRomAt s a.toNat := by
  simp [romReadRad, radRomAt, Array.getD, a.isLt]

/-- `r` is a SIN_ROM word or its sign flip: the format of SIN and COS (R75). -/
def IsSinRomWord (s : State) (r : Word) : Prop :=
  ∃ k ≤ 64, r = sinRomAt s k ∨ r = sinRomAt s k ^^^ 0x80000000#32

theorem isSinRomWord_romReadSin (s : State) (i : Fin 65) : IsSinRomWord s (romReadSin s i) :=
  ⟨i, Nat.le_of_lt_succ i.isLt, .inl (romReadSin_eq s i)⟩

theorem isSinRomWord_fneg_romReadSin (s : State) (i : Fin 65) :
    IsSinRomWord s (fneg (romReadSin s i)) :=
  ⟨i, Nat.le_of_lt_succ i.isLt, .inr (by rw [fneg, romReadSin_eq])⟩

theorem isSinRomWord_sinWord (s : State) (a : Angle) : IsSinRomWord s (sinWord s a) := by
  unfold sinWord
  split
  · exact isSinRomWord_romReadSin s _
  · exact isSinRomWord_romReadSin s _
  · exact isSinRomWord_fneg_romReadSin s _
  · exact isSinRomWord_fneg_romReadSin s _

theorem isSinRomWord_cosWord (s : State) (a : Angle) : IsSinRomWord s (cosWord s a) := by
  unfold cosWord
  split
  · exact isSinRomWord_romReadSin s _
  · exact isSinRomWord_fneg_romReadSin s _
  · exact isSinRomWord_fneg_romReadSin s _
  · exact isSinRomWord_romReadSin s _

/-- What DIV and REM answer for a divisor that is not zero is an angle. -/
theorem toNat_lt_of_unless_divzero {p : Prop} [Decidable p] {c : Angle} {r : Word}
    (h : (if p then .raised .divzero else .ok (zext32 c)) = CmdOutcome.ok r) : r.toNat < 256 := by
  split at h
  · cases h
  · cases h
    exact toNat_zext32_lt c

/-- Settles O51: STATUS OK is that of a completed command, and every command's result has its format. -/
theorem resultsAreFormatted : Obligations.ResultsAreFormatted := by
  intro i s t h hok
  obtain rfl := exec_next_iff.1 h
  have ho := outcome_of_status_ok hok
  generalize (respond (outcomeOf i s) s).result = r at ho ⊢
  cases i with
  | div a b => exact toNat_lt_of_unless_divzero ho
  | rem a b => exact toNat_lt_of_unless_divzero ho
  | cmp a b =>
    cases ho
    rcases angle_trichotomy a b with hlt | rfl | hgt
    · exact .inr (.inl (orderingWord_of_lt hlt))
    · exact .inl (orderingWord_of_eq a)
    · exact .inr (.inr (orderingWord_of_gt hgt))
  | sin a => cases ho; exact isSinRomWord_sinWord s a
  | cos a => cases ho; exact isSinRomWord_cosWord s a
  | torad a => cases ho; exact romReadRad_eq s a
  | _ => cases ho; exact toNat_zext32_lt _

/-! ## The pseudo-instructions and the host's tests -/

theorem wordOf_eq (i : Instr) (s : State) : wordOf i s = some (respond (outcomeOf i s) s).result := by
  simp only [wordOf, exec_eq_respond]

/-- ADD of the zero angle answers the angle itself, the meaning of ANGLE (R81). -/
theorem wordOf_add_zero (a : Angle) (s : State) :
    wordOf (.add a 0#8) s = some (BitVec.ofNat 32 a.toNat) := by
  rw [wordOf_eq, outcomeOf, respond_ok, completeOk_result, BitVec.add_zero, BitVec.ofNat_toNat, zext32]

theorem wordOf_cmp (a b : Angle) (s : State) : wordOf (.cmp a b) s = some (orderingWord a b) := by
  rw [wordOf_eq, outcomeOf, respond_ok, completeOk_result]

/-- The literal of an angle is taken, and it is read as that angle. -/
@[simp] theorem angleLiteral_toNat (a : Angle) : angleLiteral a.toNat = true :=
  decide_eq_true (Nat.le_of_lt_succ a.isLt)

@[simp] theorem orderingWord_eq_bit (a b : Angle) :
    (orderingWord a b)[0] = decide (a = b) := by
  simp [orderingWord, conditionBit]

@[simp] theorem orderingWord_lt_bit (a b : Angle) :
    (orderingWord a b)[1] = decide (a < b) := by
  simp [orderingWord, conditionBit]

@[simp] theorem orderingWord_gt_bit (a b : Angle) :
    (orderingWord a b)[2] = decide (b < a) := by
  simp [orderingWord, conditionBit]

/-- Each test reads one bit of CMP's result, and each of its bits is one relation. -/
theorem relation_test_orderingWord (a b : Angle) :
    (Relation.test .eq (orderingWord a b) = true ↔ a = b) ∧
    (Relation.test .ne (orderingWord a b) = true ↔ a ≠ b) ∧
    (Relation.test .lt (orderingWord a b) = true ↔ a.toNat < b.toNat) ∧
    (Relation.test .gt (orderingWord a b) = true ↔ a.toNat > b.toNat) ∧
    (Relation.test .le (orderingWord a b) = true ↔ a.toNat ≤ b.toNat) ∧
    (Relation.test .ge (orderingWord a b) = true ↔ a.toNat ≥ b.toNat) := by
  simp [Relation.test, BitVec.lt_def]

/-- Settles O57: an angle's literal is taken and read as that angle, so each line assembles to its
expansion, and each test reads the bit of CMP's result that names its relation. -/
theorem pseudoInstructionsMeanTheirExpansion : Obligations.PseudoInstructionsMeanTheirExpansion := by
  refine ⟨fun a s => ⟨?_, wordOf_add_zero a s, ?_⟩, by decide, by decide, fun a b s w h => ⟨?_, ?_⟩⟩
  · simp [assemble, Asm.wellFormed, Asm.expand]
  · simp [assemble, Asm.wellFormed, Asm.expand]
  · intro r
    simp [assemble, Asm.wellFormed, Asm.expand]
  · rw [wordOf_cmp] at h
    cases h
    exact relation_test_orderingWord a b

end Sys2Proof.Machine


/-! SUPPORT. R101 to R109 of 40_angle_alu.md: the words that are NEG, ADD, SUB, MUL, DIV, REM and CMP, what
each answers as a number, and the laws of the ring, the division and the order on what they answer. -/

namespace Sys2Proof.Machine

open Claims

/-! ## The words of the angle commands -/

/-- RSV is clear and OP is `op` where the word's top byte is `op` and then 0. -/
theorem fields_of_topByte {w : CmdWord} (op : BitVec 4) (h : w.toNat / 2 ^ 40 = op.toNat * 16) :
    rsvField w = 0#4 ∧ opField w = op := by
  have hop := op.isLt
  constructor <;> apply BitVec.eq_of_toNat_eq
  · rw [rsvField, Laws.EncodedForm.toNat_field, BitVec.toNat_ofNat]
    omega
  · rw [opField, Laws.EncodedForm.toNat_field]
    omega

theorem operandA_eq_ofNat (w : CmdWord) : operandA w = BitVec.ofNat 8 w.toNat := by
  apply BitVec.eq_of_toNat_eq
  rw [operandA, Laws.EncodedForm.toNat_field, BitVec.toNat_ofNat, Nat.pow_zero, Nat.div_one]

theorem operandB_eq_ofNat (w : CmdWord) : operandB w = BitVec.ofNat 8 (w.toNat / 2 ^ 32) := by
  apply BitVec.eq_of_toNat_eq
  rw [operandB, Laws.EncodedForm.toNat_field, BitVec.toNat_ofNat]

/-! ## What a command answers, from its outcome -/

/-- `OK(r)` writes the three registers and marks the response, and nothing else (10_state.md R38). -/
theorem exec_of_outcome_ok {i : Instr} {s : State} {r : Word} (h : outcomeOf i s = .ok r) :
    exec i s = .next { s with result := r, status := 0b00#2, rspValid := true, responded := true } := by
  rw [exec_eq_respond, h]
  rfl

/-- A command that raises DIVZERO fails with that code, its RESULT free (R40, R181). -/
theorem exec_of_outcome_divzero {i : Instr} {s : State} (h : outcomeOf i s = .raised .divzero) :
    ∃ t, exec i s = .next t ∧ FailedWith .divzero 0b01#2 s t := by
  refine ⟨raiseFailure .divzero s, by rw [exec_eq_respond, h, respond_raised], ?_⟩
  exact ⟨rfl, rfl, rfl, rfl, respond_sameTables (.raised .divzero) s, rfl, rfl, rfl⟩

theorem wordOf_of_outcome_ok {i : Instr} {s : State} {r : Word} (h : outcomeOf i s = .ok r) :
    wordOf i s = some r := by
  rw [wordOf_eq, h, respond_ok, completeOk_result]

theorem angleOf_of_outcome_ok {i : Instr} {s : State} {c : Angle}
    (h : outcomeOf i s = .ok (zext32 c)) : angleOf i s = c := by
  simp only [angleOf, exec_of_outcome_ok h]
  apply BitVec.eq_of_toNat_eq
  rw [BitVec.toNat_setWidth, toNat_zext32, Nat.mod_eq_of_lt c.isLt]

/-- An angle result as a number (R75). -/
theorem zext32_eq_ofNat {c : Angle} {n : Nat} (h : c.toNat = n) : zext32 c = BitVec.ofNat 32 n := by
  rw [← h, BitVec.ofNat_toNat, zext32]

theorem zext32_eq_ofInt {c : Angle} {z : Int} (h : (c.toNat : Int) = z) :
    zext32 c = BitVec.ofInt 32 z := by
  rw [← h, BitVec.ofInt_natCast, zext32_eq_ofNat rfl]

/-! ## The angle each command answers -/

/-- The difference of two angles is the integer one, wrapped (R103). -/
theorem toNat_sub_eq_emod (a b : Angle) :
    ((a - b).toNat : Int) = ((a.toNat : Int) - b.toNat) % 256 := by
  have := b.isLt
  rw [BitVec.toNat_sub]
  omega

theorem outcomeOf_div_zero (a : Angle) (s : State) : outcomeOf (.div a 0#8) s = .raised .divzero := rfl

theorem outcomeOf_rem_zero (a : Angle) (s : State) : outcomeOf (.rem a 0#8) s = .raised .divzero := rfl

theorem outcomeOf_div {b : Angle} (hb : b ≠ 0#8) (a : Angle) (s : State) :
    outcomeOf (.div a b) s = .ok (zext32 (a / b)) := if_neg hb

/-- `a - b · floor(a / b)` does not wrap, so it is the unsigned remainder (R106). -/
theorem sub_mul_udiv_eq_umod (a b : Angle) : a - b * (a / b) = a % b := by
  apply BitVec.eq_of_toNat_eq
  have hle : b.toNat * (a.toNat / b.toNat) ≤ a.toNat := Nat.mul_div_le _ _
  have hmod := Nat.mod_eq_sub a.toNat b.toNat
  have ha := a.isLt
  rw [BitVec.toNat_sub, BitVec.toNat_mul, BitVec.toNat_udiv, BitVec.toNat_umod]
  omega

theorem outcomeOf_rem {b : Angle} (hb : b ≠ 0#8) (a : Angle) (s : State) :
    outcomeOf (.rem a b) s = .ok (zext32 (a % b)) := by
  rw [← sub_mul_udiv_eq_umod]
  exact if_neg hb

theorem angle_ne_zero_of_toNat {b : Angle} (h : b.toNat ≠ 0) : b ≠ 0#8 := by
  rintro rfl
  exact h rfl

@[simp] theorem angleOf_neg (a : Angle) (s : State) : angleOf (.neg a) s = -a := by
  rw [angleOf_of_outcome_ok rfl, BitVec.zero_sub]

@[simp] theorem angleOf_add (a b : Angle) (s : State) : angleOf (.add a b) s = a + b :=
  angleOf_of_outcome_ok rfl

@[simp] theorem angleOf_sub (a b : Angle) (s : State) : angleOf (.sub a b) s = a - b :=
  angleOf_of_outcome_ok rfl

@[simp] theorem angleOf_mul (a b : Angle) (s : State) : angleOf (.mul a b) s = a * b :=
  angleOf_of_outcome_ok rfl

/-! ## DIV and REM -/

/-- The division identity and the bound on the remainder (R106). -/
theorem udiv_mul_add_umod {b : Angle} (hb : b ≠ 0#8) (a : Angle) :
    (a / b).toNat * b.toNat + (a % b).toNat = a.toNat ∧ (a % b).toNat < b.toNat := by
  have hpos : 0 < b.toNat := Nat.pos_of_ne_zero fun h => hb (BitVec.eq_of_toNat_eq h)
  rw [BitVec.toNat_udiv, BitVec.toNat_umod]
  exact ⟨Nat.div_add_mod' _ _, Nat.mod_lt _ hpos⟩

/-- Settles O24: REM answers the unsigned remainder, which with DIV's quotient meets the identity of
division, and it fails as DIV does on the zero divisor. -/
theorem remIsTheUnsignedRemainder : Obligations.RemIsTheUnsignedRemainder := by
  refine ⟨fun a b s h => ?_, fun a s => exec_of_outcome_divzero (outcomeOf_rem_zero a s),
    fun a b s h => ?_, fun w h => ?_⟩
  · rw [← Nat.mod_eq_sub, ← BitVec.toNat_umod, ← zext32_eq_ofNat rfl]
    exact exec_of_outcome_ok (outcomeOf_rem (angle_ne_zero_of_toNat h) a s)
  · have hb := angle_ne_zero_of_toNat h
    refine ⟨_, _, wordOf_of_outcome_ok (outcomeOf_div hb a s),
      wordOf_of_outcome_ok (outcomeOf_rem hb a s), ?_⟩
    simpa only [toNat_zext32] using udiv_mul_add_umod hb a
  · simp [decode, fields_of_topByte 0x6#4 h, operandA_eq_ofNat, operandB_eq_ofNat]

/-- Settles O23: DIV answers the unsigned quotient, and DIVZERO on the zero divisor whatever `a` is. -/
theorem divIsTheUnsignedQuotient : Obligations.DivIsTheUnsignedQuotient := by
  refine ⟨fun a b s h => ?_, fun a s => exec_of_outcome_divzero (outcomeOf_div_zero a s),
    fun w h => ?_⟩
  · rw [← BitVec.toNat_udiv, ← zext32_eq_ofNat rfl]
    exact exec_of_outcome_ok (outcomeOf_div (angle_ne_zero_of_toNat h) a s)
  · simp [decode, fields_of_topByte 0x5#4 h, operandA_eq_ofNat, operandB_eq_ofNat]

/-! ## NEG, ADD, SUB and MUL -/

/-- Settles O19: NEG is the difference from the zero angle. -/
theorem negIsNegationModulo256 : Obligations.NegIsNegationModulo256 := by
  refine ⟨fun a s => ?_, fun w h => ?_⟩
  · exact exec_of_outcome_ok (congrArg CmdOutcome.ok (zext32_eq_ofInt (toNat_sub_eq_emod 0#8 a)))
  · simp [decode, fields_of_topByte 0x1#4 h, operandA_eq_ofNat]

/-- Settles O20: the sum of two bytes wraps at 256. -/
theorem addIsAdditionModulo256 : Obligations.AddIsAdditionModulo256 := by
  refine ⟨fun a b s => ?_, fun w h => ?_⟩
  · exact exec_of_outcome_ok (congrArg CmdOutcome.ok (zext32_eq_ofNat (BitVec.toNat_add a b)))
  · simp [decode, fields_of_topByte 0x2#4 h, operandA_eq_ofNat, operandB_eq_ofNat]

/-- Settles O21: the difference of two bytes wraps to its Euclidean remainder. -/
theorem subIsSubtractionModulo256 : Obligations.SubIsSubtractionModulo256 := by
  refine ⟨fun a b s => ?_, fun w h => ?_⟩
  · exact exec_of_outcome_ok (congrArg CmdOutcome.ok (zext32_eq_ofInt (toNat_sub_eq_emod a b)))
  · simp [decode, fields_of_topByte 0x3#4 h, operandA_eq_ofNat, operandB_eq_ofNat]

/-- Settles O22: the low byte of the product. -/
theorem mulIsMultiplicationModulo256 : Obligations.MulIsMultiplicationModulo256 := by
  refine ⟨fun a b s => ?_, fun w h => ?_⟩
  · exact exec_of_outcome_ok (congrArg CmdOutcome.ok (zext32_eq_ofNat (BitVec.toNat_mul a b)))
  · simp [decode, fields_of_topByte 0x4#4 h, operandA_eq_ofNat, operandB_eq_ofNat]

/-! ## CMP -/

/-- The ordering word as a choice between numbers, as R107 writes it. -/
theorem orderingWord_eq_ite (a b : Angle) :
    orderingWord a b = if a.toNat = b.toNat then 0x00000001#32
      else if a.toNat < b.toNat then 0x00000002#32 else 0x00000004#32 := by
  rcases angle_trichotomy a b with hlt | rfl | hgt
  · have h : a.toNat < b.toNat := hlt
    rw [orderingWord_of_lt hlt, if_neg h.ne, if_pos h]
  · rw [orderingWord_of_eq, if_pos rfl]
  · have h : b.toNat < a.toNat := hgt
    rw [orderingWord_of_gt hgt, if_neg h.ne', if_neg h.not_gt]

/-- Settles O25: exactly one of the three relations holds of two bytes, and CMP writes its bit. -/
theorem cmpIsTheOneHotUnsignedOrdering : Obligations.CmpIsTheOneHotUnsignedOrdering := by
  refine ⟨fun a b s => ?_, fun w h => ?_⟩
  · exact exec_of_outcome_ok (congrArg CmdOutcome.ok (orderingWord_eq_ite a b))
  · simp [decode, fields_of_topByte 0x7#4 h, operandA_eq_ofNat, operandB_eq_ofNat]

theorem wordOf_cmp_eq_iff (a b : Angle) (s : State) : wordOf (.cmp a b) s = some 1#32 ↔ a = b := by
  rw [wordOf_cmp, Option.some.injEq]
  refine ⟨fun h => ?_, fun h => h ▸ orderingWord_of_eq a⟩
  simpa [h] using (orderingWord_eq_bit a b).symm

theorem wordOf_cmp_lt_iff (a b : Angle) (s : State) : wordOf (.cmp a b) s = some 2#32 ↔ a < b := by
  rw [wordOf_cmp, Option.some.injEq]
  refine ⟨fun h => ?_, orderingWord_of_lt⟩
  simpa [h] using (orderingWord_lt_bit a b).symm

theorem wordOf_cmp_gt_iff (a b : Angle) (s : State) : wordOf (.cmp a b) s = some 4#32 ↔ b < a := by
  rw [wordOf_cmp, Option.some.injEq]
  refine ⟨fun h => ?_, orderingWord_of_gt⟩
  simpa [h] using (orderingWord_gt_bit a b).symm

/-! ## The laws -/

/-- A product is odd where both factors are: 256 is even, so wrapping keeps the parity (R108). -/
theorem toNat_mul_odd_iff (a b : Angle) :
    (a * b).toNat % 2 = 1 ↔ a.toNat % 2 = 1 ∧ b.toNat % 2 = 1 := by
  rw [BitVec.toNat_mul, Nat.mod_mod_of_dvd _ (by decide : 2 ∣ 2 ^ 8)]
  simp only [← Nat.odd_iff, Nat.odd_mul]

/-- MUL by `2^k` clears the low `k` bits (R108). -/
theorem toNat_mul_twoPow_mod (a : Angle) {k : Nat} (hk : k < 8) :
    (a * BitVec.ofNat 8 (2 ^ k)).toNat % 2 ^ k = 0 := by
  have hdvd : 2 ^ k ∣ 2 ^ 8 := Nat.pow_dvd_pow 2 hk.le
  rw [BitVec.toNat_mul, BitVec.toNat_ofNat, Nat.mod_mod_of_dvd _ hdvd,
    Nat.mod_eq_of_lt (Nat.pow_lt_pow_right (by decide) hk), Nat.mul_mod_left]

/-- 255 is the angle -1 (R108). -/
theorem mul_255 (a : Angle) : a * 255#8 = -a := by
  have h : (255#8 : Angle) = -1#8 := by decide
  rw [h, BitVec.mul_neg, BitVec.mul_one]

/-- Settles O26: the commands answer the operations of Z/256Z, the unsigned division and the unsigned
order, whose laws these are. -/
theorem angleCommandsObeyTheRingLaws : Obligations.AngleCommandsObeyTheRingLaws := by
  intro a b c s
  simp only [angleOf_add, angleOf_sub, angleOf_mul, angleOf_neg, wordOf_cmp_eq_iff,
    wordOf_cmp_lt_iff, wordOf_cmp_gt_iff, true_and]
  refine ⟨?ring, ⟨BitVec.add_right_neg a, ?negNumber⟩, ?neg, ⟨mul_255 a, toNat_mul_odd_iff a b,
    fun k hk => toNat_mul_twoPow_mod a hk⟩, fun hb => ?division, ?order⟩
  case ring =>
    exact ⟨BitVec.add_comm a b, BitVec.add_assoc a b c, BitVec.add_zero a, BitVec.mul_comm a b,
      BitVec.mul_assoc a b c, BitVec.mul_one a, BitVec.mul_add⟩
  case negNumber =>
    apply BitVec.eq_of_toNat_eq
    rw [BitVec.toNat_neg, BitVec.toNat_ofNat, Nat.mod_mod]
  case neg =>
    exact ⟨BitVec.sub_eq_add_neg a b, (BitVec.zero_sub a).symm, BitVec.neg_neg⟩
  case division =>
    rw [angleOf_of_outcome_ok (outcomeOf_div hb a s), angleOf_of_outcome_ok (outcomeOf_rem hb a s)]
    exact udiv_mul_add_umod hb a
  case order =>
    refine ⟨?_, BitVec.lt_trans, by decide, by decide⟩
    rcases angle_trichotomy a b with hlt | heq | hgt
    · exact .inr (.inl hlt)
    · exact .inl heq
    · exact .inr (.inr hgt)

/-- Settles O27: each command's answer at `a = b`; CMP's is reflexivity of equality. -/
theorem sameOperandInBothFields : Obligations.SameOperandInBothFields := by
  intro a s
  refine ⟨?_, ?_, ?_, fun ha => ⟨?_, ?_⟩, ?_, ?_, (wordOf_cmp_eq_iff a a s).2 rfl⟩
  · rw [angleOf_add, BitVec.toNat_add, Nat.two_mul]
  · rw [wordOf_of_outcome_ok (i := .sub a a) rfl, BitVec.sub_self]
    rfl
  · rw [angleOf_mul, BitVec.toNat_mul, Nat.pow_two]
  · rw [wordOf_of_outcome_ok (outcomeOf_div ha a s), BitVec.udiv_self, if_neg (by simpa using ha)]
    rfl
  · rw [wordOf_of_outcome_ok (outcomeOf_rem ha a s), BitVec.umod_self]
    rfl
  · obtain ⟨t, ht, hstatus, -⟩ := exec_of_outcome_divzero (outcomeOf_div_zero 0#8 s)
    exact ⟨t, ht, hstatus⟩
  · obtain ⟨t, ht, hstatus, -⟩ := exec_of_outcome_divzero (outcomeOf_rem_zero 0#8 s)
    exact ⟨t, ht, hstatus⟩

end Sys2Proof.Machine

/-! SUPPORT. R130 to R134 of 41_trig.md: the selector's sign and index, SIN and COS by quadrant, and the
symmetries and exact values that follow for every SIN_ROM. -/

namespace Sys2Proof.Machine

open Claims

/-! ## The fields of an angle and the three ROM indices -/

theorem toNat_quadrant (a : Angle) : (quadrant a).toNat = a.toNat / 64 := by
  have := a.isLt
  rw [quadrant, BitVec.extractLsb'_toNat, Nat.shiftRight_eq_div_pow]
  omega

theorem toNat_low6 (a : Angle) : (low6 a).toNat = a.toNat % 64 := by
  rw [low6, BitVec.extractLsb'_toNat, Nat.shiftRight_zero]

@[simp] theorem romReadSin_directIndex (s : State) (a : Angle) :
    romReadSin s (directIndex a) = sinRomAt s (a.toNat % 64) := by
  simp only [romReadSin_eq, directIndex, toNat_low6]

@[simp] theorem romReadSin_reflectedIndex (s : State) (a : Angle) :
    romReadSin s (reflectedIndex a) = sinRomAt s (64 - a.toNat % 64) := by
  simp only [romReadSin_eq, reflectedIndex, toNat_low6]

@[simp] theorem romReadSin_fullByteIndex (s : State) (a : Angle) :
    romReadSin s (fullByteIndex a) = sinRomAt s (64 - a.toNat) := romReadSin_eq s _

/-- In quadrant 0 the full byte is the position in the quadrant (R132). -/
theorem sub_toNat_eq_sub_low6 {a : Angle} (h : a.toNat / 64 = 0) :
    64 - a.toNat = 64 - a.toNat % 64 := by
  rw [Nat.mod_eq_of_lt (by omega)]

/-! ## SIN and COS by quadrant -/

/-- The selector of SIN (R131). -/
theorem sinWord_by_quadrant (s : State) (a : Angle) : sinWord s a =
    if a.toNat / 64 = 0 then sinRomAt s (a.toNat % 64)
    else if a.toNat / 64 = 1 then sinRomAt s (64 - a.toNat % 64)
    else if a.toNat / 64 = 2 then sinRomAt s (a.toNat % 64) ^^^ 0x80000000#32
    else sinRomAt s (64 - a.toNat % 64) ^^^ 0x80000000#32 := by
  rw [← toNat_quadrant]
  unfold sinWord
  split <;> next hq => simp [hq, fneg]

/-- The selector of COS (R132). -/
theorem cosWord_by_quadrant (s : State) (a : Angle) : cosWord s a =
    if a.toNat / 64 = 0 then sinRomAt s (64 - a.toNat)
    else if a.toNat / 64 = 1 then sinRomAt s (a.toNat % 64) ^^^ 0x80000000#32
    else if a.toNat / 64 = 2 then sinRomAt s (64 - a.toNat % 64) ^^^ 0x80000000#32
    else sinRomAt s (a.toNat % 64) := by
  rw [← toNat_quadrant]
  unfold cosWord
  split <;> next hq => simp [hq, fneg]

theorem wordOf_sin (a : Angle) (s : State) : wordOf (.sin a) s = some (sinWord s a) :=
  wordOf_of_outcome_ok rfl

theorem wordOf_cos (a : Angle) (s : State) : wordOf (.cos a) s = some (cosWord s a) :=
  wordOf_of_outcome_ok rfl

/-- With the reference default SIN_ROM, SIN answers what it answers after reset. -/
theorem wordOf_sin_default {s : State} (h : s.sinRom = defaultSinRom) (a : Angle) :
    wordOf (.sin a) s = wordOf (.sin a) State.reset := by
  simp only [wordOf_sin, sinWord, romReadSin, h, State.reset]

/-- With the reference default SIN_ROM, COS answers what it answers after reset. -/
theorem wordOf_cos_default {s : State} (h : s.sinRom = defaultSinRom) (a : Angle) :
    wordOf (.cos a) s = wordOf (.cos a) State.reset := by
  simp only [wordOf_cos, cosWord, romReadSin, h, State.reset]

/-- Settles O28: the outcome of SIN is the word its quadrant selects. -/
theorem sinReadsTheQuarterWaveTable : Obligations.SinReadsTheQuarterWaveTable := by
  refine ⟨fun a s => ?_, fun w h => ?_, fun s h => ?_⟩
  · exact exec_of_outcome_ok (congrArg CmdOutcome.ok (sinWord_by_quadrant s a))
  · simp [decode, fields_of_topByte 0x8#4 h, operandA_eq_ofNat]
  · simp only [wordOf_sin_default h]
    decide

/-- Settles O29: the outcome of COS is the word its quadrant selects. -/
theorem cosReadsTheQuarterWaveTable : Obligations.CosReadsTheQuarterWaveTable := by
  refine ⟨fun a s => ?_, fun a => sub_toNat_eq_sub_low6, fun w h => ?_, fun s h => ?_⟩
  · exact exec_of_outcome_ok (congrArg CmdOutcome.ok (cosWord_by_quadrant s a))
  · simp [decode, fields_of_topByte 0x9#4 h, operandA_eq_ofNat]
  · simp only [wordOf_cos_default h]
    decide

/-! ## The selector's control signals -/

/-- The index SIN selects: reflected where bit 6 of the angle is set (R130). -/
def sinIndex (a : Angle) : Nat := if a.getLsbD 6 then 64 - a.toNat % 64 else a.toNat % 64

theorem getLsbD_six (a : Angle) : a.getLsbD 6 = decide (a.toNat / 64 % 2 = 1) :=
  Nat.testBit_eq_decide_div_mod_eq

theorem getLsbD_seven (a : Angle) : a.getLsbD 7 = decide (a.toNat / 128 % 2 = 1) :=
  Nat.testBit_eq_decide_div_mod_eq

/-- SIN reads the word at its index and negates it where bit 7 is set (R130). -/
theorem sinWord_eq_flipSign (s : State) (a : Angle) :
    sinWord s a = flipSign (a.getLsbD 7) (sinRomAt s (sinIndex a)) := by
  have ha := a.isLt
  have h128 : a.toNat / 128 = a.toNat / 64 / 2 := by omega
  have hlt : a.toNat / 64 < 4 := by omega
  rw [sinWord_by_quadrant, sinIndex, getLsbD_six, getLsbD_seven, h128]
  interval_cases a.toNat / 64 <;> simp [flipSign]

theorem toNat_add_64 (a : Angle) : (a + 64#8).toNat = (a.toNat + 64) % 256 := BitVec.toNat_add _ _

/-- The angles a quarter turn before the two ends of the half turn. -/
theorem add_64_eq_iff (a : Angle) : a + 64#8 = 0#8 ∨ a + 64#8 = 128#8 ↔ a = 64#8 ∨ a = 192#8 := by
  bv_omega

/-- The cosine is the sine a quarter turn later (R133). -/
theorem cosWord_eq_sinWord_add_64 (s : State) (a : Angle) : cosWord s a = sinWord s (a + 64#8) := by
  have ha := a.isLt
  have hmod : (a.toNat + 64) % 256 % 64 = a.toNat % 64 := by omega
  have hdiv : (a.toNat + 64) % 256 / 64 = (a.toNat / 64 + 1) % 4 := by omega
  have hlt : a.toNat / 64 < 4 := by omega
  have h0 := sub_toNat_eq_sub_low6 (a := a)
  rw [cosWord_by_quadrant, sinWord_by_quadrant, toNat_add_64, hmod, hdiv]
  interval_cases a.toNat / 64 <;> simp [h0]

theorem getLsbD_six_add_64 (a : Angle) : (a + 64#8).getLsbD 6 = !a.getLsbD 6 := by
  rw [getLsbD_six, getLsbD_six, toNat_add_64, ← decide_not, decide_eq_decide]
  omega

theorem getLsbD_seven_add_64 (a : Angle) :
    (a + 64#8).getLsbD 7 = (a.getLsbD 7 ^^ a.getLsbD 6) := by
  rw [getLsbD_seven, getLsbD_seven, getLsbD_six, toNat_add_64, Bool.eq_iff_iff]
  simp only [bne_iff_ne, ne_eq, decide_eq_decide, decide_eq_true_eq]
  omega

theorem sinIndex_add_64 (a : Angle) :
    sinIndex (a + 64#8) = if a.getLsbD 6 then a.toNat % 64 else 64 - a.toNat % 64 := by
  have hmod : (a.toNat + 64) % 256 % 64 = a.toNat % 64 := by omega
  rw [sinIndex, getLsbD_six_add_64, toNat_add_64, hmod]
  cases a.getLsbD 6 <;> rfl

/-- Settles O30: SIN by its own signals; COS by those of the sine a quarter turn later, where bit 6 is
inverted and bit 7 has taken its carry. -/
theorem trigFollowsTheSelectorSignals : Obligations.TrigFollowsTheSelectorSignals := by
  intro a s
  refine ⟨?_, ?_, by omega, by omega, by omega⟩
  · rw [wordOf_sin, sinWord_eq_flipSign, sinIndex]
  · rw [wordOf_cos, cosWord_eq_sinWord_add_64, sinWord_eq_flipSign, getLsbD_seven_add_64,
      sinIndex_add_64]

/-! ## The symmetry laws -/

@[simp] theorem flipSign_true (w : Word) : flipSign true w = fneg w := rfl

@[simp] theorem fneg_fneg (w : Word) : fneg (fneg w) = w := by
  rw [fneg, fneg, BitVec.xor_assoc, BitVec.xor_self, BitVec.xor_zero]

theorem fneg_ne_self (w : Word) : fneg w ≠ w := by
  intro h
  have hsign := congrArg (·.getLsbD 31) h
  simp [fneg] at hsign

theorem flipSign_not (b : Bool) (w : Word) : flipSign (!b) w = fneg (flipSign b w) := by
  cases b
  · rfl
  · exact (fneg_fneg w).symm

theorem fneg_and_magnitudeMask (w : Word) : fneg w &&& 0x7FFFFFFF#32 = w &&& 0x7FFFFFFF#32 := by
  have hmask : 0x80000000#32 &&& 0x7FFFFFFF#32 = 0#32 := by decide
  ext i hi
  have hbit : ((0x80000000#32)[i] && (0x7FFFFFFF#32)[i]) = false := by
    rw [← BitVec.getElem_and, hmask, BitVec.getElem_zero]
  rw [fneg, BitVec.getElem_and, BitVec.getElem_and, BitVec.getElem_xor, Bool.and_xor_distrib_right,
    hbit, Bool.xor_false]

theorem flipSign_and_magnitudeMask (b : Bool) (w : Word) :
    flipSign b w &&& 0x7FFFFFFF#32 = w &&& 0x7FFFFFFF#32 := by
  cases b
  · rfl
  · exact fneg_and_magnitudeMask w

theorem sinIndex_le (a : Angle) : sinIndex a ≤ 64 := by
  unfold sinIndex
  split <;> omega

/-- Half a turn later bit 7 alone is inverted. -/
theorem sinWord_add_128 (s : State) (a : Angle) : sinWord s (a + 128#8) = fneg (sinWord s a) := by
  have hn : (a + 128#8).toNat = (a.toNat + 128) % 256 := BitVec.toNat_add _ _
  have hsign : (a + 128#8).getLsbD 7 = !a.getLsbD 7 := by
    rw [getLsbD_seven, getLsbD_seven, hn, ← decide_not, decide_eq_decide]
    omega
  have hindex : sinIndex (a + 128#8) = sinIndex a := by
    have hmod : (a.toNat + 128) % 256 % 64 = a.toNat % 64 := by omega
    have hdiv : (a.toNat + 128) % 256 / 64 % 2 = a.toNat / 64 % 2 := by omega
    rw [sinIndex, sinIndex, getLsbD_six, getLsbD_six, hn, hmod, hdiv]
  rw [sinWord_eq_flipSign, hsign, hindex, flipSign_not, ← sinWord_eq_flipSign]

/-- The half turn read backwards: the same half and the same entry, but for its two ends. -/
theorem sinWord_128_sub {a : Angle} (s : State) (h0 : a ≠ 0#8) (h128 : a ≠ 128#8) :
    sinWord s (128#8 - a) = sinWord s a := by
  have ha := a.isLt
  have hn : (128#8 - a).toNat = (256 - a.toNat + 128) % 256 := BitVec.toNat_sub _ _
  rw [Ne, ← BitVec.toNat_inj, BitVec.toNat_ofNat] at h0 h128
  have hsign : (128#8 - a).getLsbD 7 = a.getLsbD 7 := by
    rw [getLsbD_seven, getLsbD_seven, hn, decide_eq_decide]
    omega
  have hindex : sinIndex (128#8 - a) = sinIndex a := by
    simp only [sinIndex, getLsbD_six, hn, decide_eq_true_eq]
    split <;> split <;> omega
  rw [sinWord_eq_flipSign, hsign, hindex, ← sinWord_eq_flipSign]

/-- At its two ends the half turn read backwards is half a turn away. -/
theorem sinWord_128_sub_of_end {a : Angle} (s : State) (h : a = 0#8 ∨ a = 128#8) :
    sinWord s (128#8 - a) = fneg (sinWord s a) := by
  rw [← sinWord_add_128]
  rcases h with rfl | rfl <;> rfl

theorem sinWord_neg (s : State) (a : Angle) : sinWord s (-a) = fneg (sinWord s (128#8 - a)) := by
  have h : -a = 128#8 - a + 128#8 := by bv_omega
  rw [h, sinWord_add_128]

theorem cosWord_neg (s : State) (a : Angle) : cosWord s (-a) = sinWord s (128#8 - (a + 64#8)) := by
  have h : -a + 64#8 = 128#8 - (a + 64#8) := by bv_omega
  rw [cosWord_eq_sinWord_add_64, h]

theorem sinIndex_eq_or (a : Angle) :
    sinIndex a = a.toNat % 64 ∨ sinIndex a = 64 - a.toNat % 64 := by
  unfold sinIndex
  split
  · exact .inr rfl
  · exact .inl rfl

/-- Wrapping a number before it is read as an angle changes nothing (00_scope.md R17). -/
theorem ofInt_emod_256 (z : Int) : BitVec.ofInt 8 (z % 256) = BitVec.ofInt 8 z := by
  apply BitVec.eq_of_toNat_eq
  rw [BitVec.toNat_ofInt, BitVec.toNat_ofInt]
  exact congrArg Int.toNat (Int.emod_emod z 256)

theorem ofInt_toNat (a : Angle) : BitVec.ofInt 8 a.toNat = a := by
  rw [BitVec.ofInt_natCast, BitVec.ofNat_toNat, BitVec.setWidth_eq]

theorem ofInt_sub_toNat (z : Int) (a : Angle) :
    BitVec.ofInt 8 (z - a.toNat) = BitVec.ofInt 8 z - a := by
  rw [Int.sub_eq_add_neg, BitVec.ofInt_add, BitVec.ofInt_neg, ofInt_toNat, BitVec.sub_eq_add_neg]

theorem ofInt_toNat_add (a : Angle) (z : Int) :
    BitVec.ofInt 8 (a.toNat + z) = a + BitVec.ofInt 8 z := by
  rw [BitVec.ofInt_add, ofInt_toNat]

/-- Settles O31: everything follows from the cosine as a shifted sine, the sign change after half a turn
and the half turn that reads the same backwards. -/
theorem trigSymmetriesHoldForEveryRom : Obligations.TrigSymmetriesHoldForEveryRom := by
  intro a s
  have h64 : BitVec.ofInt 8 64 = 64#8 := by decide
  have h128 : BitVec.ofInt 8 128 = 128#8 := by decide
  have h256 : BitVec.ofInt 8 256 = 0#8 := by decide
  simp only [ofInt_emod_256, ofInt_toNat_add, ofInt_sub_toNat, ofInt_toNat, h64, h128, h256,
    BitVec.zero_sub, wordOf_sin, wordOf_cos, Option.map_some, Option.some.injEq, ne_eq,
    flipSign_true]
  refine ⟨cosWord_eq_sinWord_add_64 s a, fun h0 h128 => ?_, fun h => ?_, fun h64 h192 => ?_,
    fun h => ?_, sinWord_128_sub s, sinWord_128_sub_of_end s, isSinRomWord_sinWord s a,
    isSinRomWord_cosWord s a, ?_⟩
  · rw [sinWord_neg, sinWord_128_sub s h0 h128]
  · rw [sinWord_neg, sinWord_128_sub_of_end s h, fneg_fneg]
    exact (fneg_ne_self _).symm
  · have h := (add_64_eq_iff a).not.2 (not_or.2 ⟨h64, h192⟩)
    rw [cosWord_neg, cosWord_eq_sinWord_add_64 s a]
    exact sinWord_128_sub s (not_or.1 h).1 (not_or.1 h).2
  · rw [cosWord_neg, cosWord_eq_sinWord_add_64 s a]
    exact sinWord_128_sub_of_end s ((add_64_eq_iff a).2 h)
  · rw [sinWord_eq_flipSign, flipSign_and_magnitudeMask]
    rcases sinIndex_eq_or a with h | h
    · exact .inl (by rw [h])
    · exact .inr (by rw [h])

/-! ## The exact zeros and ones -/

theorem sinIndex_eq_zero_iff (a : Angle) : sinIndex a = 0 ↔ a = 0#8 ∨ a = 128#8 := by
  have ha := a.isLt
  rw [← BitVec.toNat_inj, ← BitVec.toNat_inj, BitVec.toNat_ofNat, BitVec.toNat_ofNat, sinIndex,
    getLsbD_six]
  simp only [decide_eq_true_eq]
  split <;> omega

theorem signBit_fneg (w : Word) : signBit (fneg w) = !signBit w := by
  simp [signBit, fneg]

theorem expField_fneg (w : Word) : expField (fneg w) = expField w := by
  rw [expField, fneg, BitVec.extractLsb'_xor]
  exact congrArg BitVec.toNat BitVec.xor_zero

theorem fracField_fneg (w : Word) : fracField (fneg w) = fracField w := by
  rw [fracField, fneg, BitVec.extractLsb'_xor]
  exact congrArg BitVec.toNat BitVec.xor_zero

theorem magnitude_fneg (w : Word) : magnitude (fneg w) = magnitude w := by
  rw [magnitude, expField_fneg, fracField_fneg, magnitude]

theorem signedUnits_fneg (w : Word) : signedUnits (fneg w) = -signedUnits w := by
  rw [signedUnits, signBit_fneg, magnitude_fneg, signedUnits]
  cases signBit w <;> simp

theorem val_fneg (w : Word) : val (fneg w) = -val w := by
  rw [val_eq_signedUnits, val_eq_signedUnits, signedUnits_fneg, Int.cast_neg, neg_div]

theorem val_flipSign_eq_zero_iff (b : Bool) (w : Word) : val (flipSign b w) = 0 ↔ val w = 0 := by
  cases b
  · rfl
  · rw [flipSign_true, val_fneg, neg_eq_zero]

/-- A pattern from its three fields. -/
theorem word_eq_of_fields {v w : Word} (hs : signBit v = signBit w) (he : expField v = expField w)
    (hf : fracField v = fracField w) : v = w := by
  have hv := v.isLt
  have hw := w.isLt
  simp only [signBit, expField, fracField, BitVec.getLsbD, BitVec.extractLsb'_toNat,
    Nat.testBit_eq_decide_div_mod_eq, decide_eq_decide, Nat.shiftRight_eq_div_pow] at hs he hf
  apply BitVec.eq_of_toNat_eq
  omega

/-- A magnitude of 2^149 units, which is 1.0, has the exponent 127 and the fraction 0. -/
theorem fields_of_magnitude_one {w : Word} (h : magnitude w = 2 ^ 149) :
    expField w = 127 ∧ fracField w = 0 := by
  have hf : fracField w < 2 ^ 23 := (w.extractLsb' 0 23).isLt
  unfold magnitude at h
  split at h
  · omega
  · obtain ⟨m, hm, hpow⟩ := (Nat.dvd_prime_pow Nat.prime_two).1 (Dvd.intro _ h)
    have hlow : 23 ≤ m := (Nat.pow_le_pow_iff_right (by decide : 1 < 2)).1 (by omega)
    have hhigh : m < 24 := (Nat.pow_lt_pow_iff_right (by decide : 1 < 2)).1 (by omega)
    obtain rfl : m = 23 := by omega
    rw [hpow, ← Nat.pow_add] at h
    have := Nat.pow_right_injective (le_refl 2) h
    omega

/-- 1.0 has one pattern. -/
theorem eq_one_of_val_eq_one {w : Word} (h : val w = 1) : w = 0x3F800000#32 := by
  rw [val_eq_signedUnits, div_eq_one_iff_eq (by positivity)] at h
  have h' : signedUnits w = 2 ^ 149 := by exact_mod_cast h
  unfold signedUnits at h'
  cases hs : signBit w
  · rw [hs, if_neg (by decide)] at h'
    obtain ⟨he, hf⟩ := fields_of_magnitude_one (w := w) (by exact_mod_cast h')
    exact word_eq_of_fields hs he hf
  · rw [hs, if_pos rfl] at h'
    omega

/-- With no zero but the first entry, SIN is a zero where it reads that entry. -/
theorem val_sinWord_eq_zero_iff {s : State} (h0 : sinRomAt s 0 = 0x00000000#32)
    (hne : ∀ i, 1 ≤ i → i ≤ 64 → val (sinRomAt s i) ≠ 0) (a : Angle) :
    val (sinWord s a) = 0 ↔ a = 0#8 ∨ a = 128#8 := by
  rw [sinWord_eq_flipSign, val_flipSign_eq_zero_iff, ← sinIndex_eq_zero_iff]
  constructor
  · intro h
    by_contra hi
    exact hne _ (Nat.pos_of_ne_zero hi) (sinIndex_le a) h
  · intro h
    rw [h, h0]
    norm_num [val]

/-- Settles O32: the zeros of SIN are those of the index, COS is SIN a quarter turn later, and each stated
value is the first or the last entry with the sign of its quadrant. -/
theorem trigZerosAndOnesAreExact : Obligations.TrigZerosAndOnesAreExact := by
  intro s hone h0 hne
  have h64 := eq_one_of_val_eq_one hone
  refine ⟨fun a w h => ?_, fun a w h => ?_, ?_⟩
  · rw [wordOf_sin] at h
    cases h
    exact val_sinWord_eq_zero_iff h0 hne a
  · rw [wordOf_cos, cosWord_eq_sinWord_add_64] at h
    cases h
    rw [val_sinWord_eq_zero_iff h0 hne, add_64_eq_iff]
  · simp [wordOf_sin, wordOf_cos, sinWord_by_quadrant, cosWord_by_quadrant, h0, h64]

end Sys2Proof.Machine

/-! SUPPORT. R152 to R154 and R156 of 42_conversion.md: magnitudes, products and roundings are monotone in the
31 bits below the sign, so that FROMRAD's thresholds are settled by the two patterns beside each of them. -/

namespace Sys2Proof.Machine

open Claims

/-! ## The 31 bits below the sign order the magnitudes -/

theorem expField_eq_div (w : Word) : expField w = w.toNat % 2 ^ 31 / 2 ^ 23 := by
  rw [expField, BitVec.extractLsb'_toNat, Nat.shiftRight_eq_div_pow]
  omega

theorem fracField_eq_mod (w : Word) : fracField w = w.toNat % 2 ^ 31 % 2 ^ 23 := by
  rw [fracField, BitVec.extractLsb'_toNat, Nat.shiftRight_zero]
  omega

theorem isFinite_iff (w : Word) : isFinite w = true ↔ w.toNat % 2 ^ 31 < 0x7F800000 := by
  rw [isFinite, decide_eq_true_eq, expField_eq_div]
  omega

theorem isFinite_false_iff (w : Word) : isFinite w = false ↔ 0x7F800000 ≤ w.toNat % 2 ^ 31 := by
  rw [← Bool.not_eq_true, isFinite_iff, not_lt]

theorem isFinite_false_of_infinity {w : Word} (h : w &&& 0x7FFFFFFF#32 = 0x7F800000#32) :
    isFinite w = false := by
  have hlow := congrArg BitVec.toNat h
  rw [BitVec.toNat_and] at hlow
  rw [isFinite_false_iff, ← Nat.and_two_pow_sub_one_eq_mod]
  exact hlow.ge

theorem magnitude_lt (w : Word) : magnitude w < 2 ^ (expField w + 23) := by
  have hf : fracField w < 2 ^ 23 := (w.extractLsb' 0 23).isLt
  unfold magnitude
  split
  · rename_i h0
    rwa [h0, Nat.zero_add]
  · rename_i h0
    calc (2 ^ 23 + fracField w) * 2 ^ (expField w - 1)
        < 2 ^ 24 * 2 ^ (expField w - 1) := Nat.mul_lt_mul_of_pos_right (by omega) (by positivity)
      _ = 2 ^ (expField w + 23) := by rw [← Nat.pow_add]; congr 1; omega

theorem le_magnitude {w : Word} (h : expField w ≠ 0) : 2 ^ (expField w + 22) ≤ magnitude w := by
  rw [magnitude, if_neg h]
  calc 2 ^ (expField w + 22) = 2 ^ 23 * 2 ^ (expField w - 1) := by
        rw [← Nat.pow_add]; congr 1; omega
    _ ≤ (2 ^ 23 + fracField w) * 2 ^ (expField w - 1) :=
        Nat.mul_le_mul_right _ (Nat.le_add_right _ _)

theorem magnitude_mono {v w : Word} (h : v.toNat % 2 ^ 31 ≤ w.toNat % 2 ^ 31) :
    magnitude v ≤ magnitude w := by
  have he : expField v ≤ expField w := by
    rw [expField_eq_div, expField_eq_div]
    exact Nat.div_le_div_right h
  rcases he.lt_or_eq with hlt | heq
  · calc magnitude v ≤ 2 ^ (expField v + 23) := (magnitude_lt v).le
      _ ≤ 2 ^ (expField w + 22) := Nat.pow_le_pow_right (by decide) (by omega)
      _ ≤ magnitude w := le_magnitude (by omega)
  · have hf : fracField v ≤ fracField w := by
      rw [expField_eq_div, expField_eq_div] at heq
      rw [fracField_eq_mod, fracField_eq_mod]
      omega
    unfold magnitude
    rw [heq]
    split
    · exact hf
    · exact Nat.mul_le_mul_right _ (Nat.add_le_add_left hf _)

/-- A significand has 24 bits, so a large magnitude ends in zeros. -/
theorem two_pow_dvd_magnitude {w : Word} {n : Nat} (h : 2 ^ (n + 23) ≤ magnitude w) :
    2 ^ n ∣ magnitude w := by
  have hn : n + 23 < expField w + 23 :=
    (Nat.pow_lt_pow_iff_right (by decide)).1 (h.trans_lt (magnitude_lt w))
  rw [magnitude, if_neg (by omega)]
  exact Dvd.dvd.mul_left (pow_dvd_pow 2 (by omega)) _

/-! ## Rounding a quotient is monotone, and exact on integers -/

/-- Each mode rounds to one of the two integers around the quotient. -/
theorem roundQuotient_bounds (mode : RoundMode) (num den : Nat) :
    num / den ≤ roundQuotient mode num den ∧ roundQuotient mode num den ≤ num / den + 1 := by
  cases mode with
  | halfAwayFromZero => simp only [roundQuotient]; split <;> omega
  | halfEven => simp only [roundQuotient]; split <;> omega
  | towardZero => simp only [roundQuotient]; omega

theorem roundQuotient_mono (mode : RoundMode) {m n : Nat} (h : m ≤ n) (den : Nat) :
    roundQuotient mode m den ≤ roundQuotient mode n den := by
  rcases (Nat.div_le_div_right h : m / den ≤ n / den).lt_or_eq with hlt | heq
  · calc roundQuotient mode m den ≤ m / den + 1 := (roundQuotient_bounds mode m den).2
      _ ≤ n / den := hlt
      _ ≤ roundQuotient mode n den := (roundQuotient_bounds mode n den).1
  · have hr : m % den ≤ n % den := by
      have hm := Nat.div_add_mod m den
      have hn := Nat.div_add_mod n den
      rw [heq] at hm
      omega
    cases mode with
    | halfAwayFromZero => simp only [roundQuotient, heq]; split_ifs <;> omega
    | halfEven => simp only [roundQuotient, heq]; split_ifs <;> omega
    | towardZero => exact heq.le

theorem roundQuotient_mul_self (mode : RoundMode) (k : Nat) {den : Nat} (h : 0 < den) :
    roundQuotient mode (k * den) den = k := by
  cases mode <;> simp [roundQuotient, Nat.mul_div_cancel _ h, h]

theorem roundQuotient_eq_zero (mode : RoundMode) {num den : Nat} (h : 2 * num < den) :
    roundQuotient mode num den = 0 := by
  have hlt : num < den := by omega
  cases mode <;> simp [roundQuotient, Nat.div_eq_of_lt hlt, Nat.mod_eq_of_lt hlt, h]

/-! ## The binary32 product is monotone -/

/-- The binade `rne32` rounds in: a significand there counts units of 2 to this power. -/
def binadeShift (num den : Nat) : Nat := Nat.log2 (num / den) - 23

theorem rne32_eq (num den : Nat) :
    rne32 num den = min (binadeShift num den * 2 ^ 23 +
      roundQuotient .halfEven num (den * 2 ^ binadeShift num den)) 0x7F800000 := rfl

theorem binadeShift_mono {m n : Nat} (h : m ≤ n) (den : Nat) :
    binadeShift m den ≤ binadeShift n den := by
  have hlog : Nat.log2 (m / den) ≤ Nat.log2 (n / den) := by
    rw [Nat.log2_eq_log_two, Nat.log2_eq_log_two]
    exact Nat.log_mono_right (Nat.div_le_div_right h)
  exact Nat.sub_le_sub_right hlog 23

/-- The significand of a binade rounds to at most 2^24. -/
theorem significand_le (num : Nat) {den : Nat} (h : 0 < den) :
    roundQuotient .halfEven num (den * 2 ^ binadeShift num den) ≤ 2 ^ 24 := by
  have hq : num / den < 2 ^ (24 + binadeShift num den) :=
    Nat.lt_log2_self.trans_le (Nat.pow_le_pow_right (by decide) (by unfold binadeShift; omega))
  have hnum : num ≤ 2 ^ 24 * (den * 2 ^ binadeShift num den) := by
    calc num ≤ 2 ^ (24 + binadeShift num den) * den := (Nat.lt_mul_of_div_lt hq h).le
      _ = 2 ^ 24 * (den * 2 ^ binadeShift num den) := by rw [Nat.pow_add]; ring
  calc roundQuotient .halfEven num (den * 2 ^ binadeShift num den)
      ≤ roundQuotient .halfEven (2 ^ 24 * (den * 2 ^ binadeShift num den)) _ :=
        roundQuotient_mono _ hnum _
    _ = 2 ^ 24 := roundQuotient_mul_self _ _ (by positivity)

/-- The significand of a binade above the lowest one is at least 2^23. -/
theorem le_significand {num den : Nat} (h : 0 < den) (hs : 0 < binadeShift num den) :
    2 ^ 23 ≤ roundQuotient .halfEven num (den * 2 ^ binadeShift num den) := by
  have hlog : Nat.log2 (num / den) = 23 + binadeShift num den := by
    unfold binadeShift at hs ⊢
    omega
  have hne : num / den ≠ 0 := by
    intro h0
    rw [h0, Nat.log2_zero] at hlog
    omega
  have hq : 2 ^ (23 + binadeShift num den) ≤ num / den := hlog ▸ Nat.log2_self_le hne
  have hnum : 2 ^ 23 * (den * 2 ^ binadeShift num den) ≤ num := by
    calc 2 ^ 23 * (den * 2 ^ binadeShift num den)
        = den * 2 ^ (23 + binadeShift num den) := by rw [Nat.pow_add]; ring
      _ ≤ den * (num / den) := Nat.mul_le_mul_left _ hq
      _ ≤ num := Nat.mul_div_le num den
  calc 2 ^ 23 = roundQuotient .halfEven (2 ^ 23 * (den * 2 ^ binadeShift num den)) _ :=
        (roundQuotient_mul_self _ _ (by positivity)).symm
    _ ≤ roundQuotient .halfEven num (den * 2 ^ binadeShift num den) := roundQuotient_mono _ hnum _

/-- Within a binade by the rounding, across binades because one's top is at most the next one's bottom. -/
theorem rne32_mono {m n den : Nat} (h : m ≤ n) (hden : 0 < den) : rne32 m den ≤ rne32 n den := by
  rw [rne32_eq, rne32_eq]
  apply min_le_min_right
  rcases (binadeShift_mono h den).lt_or_eq with hlt | heq
  · have htop := significand_le m hden
    have hbottom := le_significand hden (Nat.zero_lt_of_lt hlt)
    omega
  · rw [heq]
    exact Nat.add_le_add_left (roundQuotient_mono _ h _) _

theorem toNat_withSign_mod (neg : Bool) {mag : Nat} (h : mag < 2 ^ 31) :
    (withSign neg mag).toNat % 2 ^ 31 = mag := by
  have hlow : (BitVec.ofNat 31 mag).toNat = mag := Nat.mod_eq_of_lt h
  rw [withSign, BitVec.toNat_append, hlow, ← Nat.shiftLeft_add_eq_or_of_lt h, Nat.shiftLeft_eq,
    Nat.mul_add_mod_self_right, Nat.mod_eq_of_lt h]

/-- The product below its sign is the rounded product of the magnitudes. -/
theorem toNat_fmul_mod {a b : Word} (ha : isFinite a = true) (hb : isFinite b = true) :
    (fmul a b).toNat % 2 ^ 31 = rne32 (magnitude a * magnitude b) unitsPerOne := by
  rw [fmul, ha, hb, Bool.and_self, if_pos rfl]
  exact toNat_withSign_mod _ (lt_of_le_of_lt (min_le_right _ _) (by decide))

theorem fmul_mono {v w c : Word} (hv : isFinite v = true) (hw : isFinite w = true)
    (hc : isFinite c = true) (h : v.toNat % 2 ^ 31 ≤ w.toNat % 2 ^ 31) :
    (fmul v c).toNat % 2 ^ 31 ≤ (fmul w c).toNat % 2 ^ 31 := by
  rw [toNat_fmul_mod hv hc, toNat_fmul_mod hw hc]
  exact rne32_mono (Nat.mul_le_mul_right _ (magnitude_mono h)) unitsPerOne_pos

/-! ## FROMRAD by its product -/

theorem outcomeOf_fromrad (x : Word) (s : State) :
    outcomeOf (.fromrad x) s = .ok (zext32 (fromradAngle s.params x)) := rfl

theorem fromradAngle_of_finite {p : Params} {x : Word} (hx : isFinite x = true)
    (hp : isFinite (fmul x p.radScale) = true) :
    fromradAngle p x = BitVec.ofInt 8 (roundToInt p.fromradRound (fmul x p.radScale)) := by
  rw [fromradAngle, if_pos hx]
  exact if_pos hp

theorem fromradAngle_of_not_finite {p : Params} {x : Word}
    (h : isFinite x = false ∨ isFinite (fmul x p.radScale) = false) :
    fromradAngle p x = p.nonfiniteAngle := by
  unfold fromradAngle
  rcases h with h | h <;> simp [h]

/-- A magnitude below one half, that is below 2^148 units, is finite. -/
theorem isFinite_of_small {w : Word} (h : 2 * magnitude w < unitsPerOne) : isFinite w = true := by
  rw [isFinite, decide_eq_true_eq]
  intro he
  have hle := le_magnitude (w := w) (by omega)
  rw [he] at hle
  unfold unitsPerOne at h
  omega

theorem roundToInt_of_small (m : RoundMode) {w : Word} (h : 2 * magnitude w < unitsPerOne) :
    roundToInt m w = 0 := by
  rw [roundToInt, roundQuotient_eq_zero m h]
  simp

/-- A product below one half rounds to 0 in each mode. -/
theorem fromradAngle_of_small {p : Params} {x : Word} (hx : isFinite x = true)
    (h : 2 * magnitude (fmul x p.radScale) < unitsPerOne) : fromradAngle p x = 0#8 := by
  rw [fromradAngle_of_finite hx (isFinite_of_small h), roundToInt_of_small _ h]
  rfl

theorem le_abs_val_iff (n : Nat) (w : Word) : (2 : ℚ) ^ n ≤ |val w| ↔ 2 ^ (n + 149) ≤ magnitude w := by
  rw [abs_val, le_div_iff₀ (by exact_mod_cast unitsPerOne_pos), unitsPerOne, Nat.pow_add]
  exact_mod_cast Iff.rfl

theorem two_mul_magnitude_lt_of_abs_val_lt_half {w : Word} (h : |val w| < 1 / 2) :
    2 * magnitude w < unitsPerOne := by
  rw [abs_val, div_lt_iff₀ (by exact_mod_cast unitsPerOne_pos)] at h
  have h' : (2 * magnitude w : ℚ) < unitsPerOne := by linarith
  exact_mod_cast h'

/-- A magnitude of a whole number of units of 2^j has a value that is a multiple of 2^j. -/
theorem val_eq_two_pow_mul {w : Word} {j : Nat} (h : 2 ^ (j + 149) ∣ magnitude w) :
    ∃ k : ℤ, val w = 2 ^ j * k := by
  obtain ⟨n, hn⟩ := h
  have hdiv : (magnitude w : ℚ) / unitsPerOne = 2 ^ j * (n : ℤ) := by
    rw [hn, unitsPerOne, pow_add]
    push_cast
    field_simp
  rcases roundToInt_and_val_share_sign .towardZero w with ⟨-, hv⟩ | ⟨-, hv⟩
  · exact ⟨n, by rw [hv, hdiv]⟩
  · exact ⟨-n, by rw [hv, hdiv]; push_cast; ring⟩

/-- R154: a product of at least 2^24 is an integer, and rounding does nothing. -/
theorem roundToInt_eq_val {w : Word} (m : RoundMode) (h : 2 ^ 24 ≤ |val w|) :
    (roundToInt m w : ℚ) = val w := by
  obtain ⟨k, hk⟩ : unitsPerOne ∣ magnitude w :=
    two_pow_dvd_magnitude (Nat.le_trans (by decide) ((le_abs_val_iff 24 w).1 h))
  rw [Nat.mul_comm] at hk
  have hone : (unitsPerOne : ℚ) ≠ 0 := by exact_mod_cast unitsPerOne_pos.ne'
  have hround : (roundQuotient m (magnitude w) unitsPerOne : ℚ) = magnitude w / unitsPerOne := by
    rw [hk, roundQuotient_mul_self m k unitsPerOne_pos, Nat.cast_mul, mul_div_cancel_right₀ _ hone]
  rcases roundToInt_and_val_share_sign m w with ⟨hr, hv⟩ | ⟨hr, hv⟩
  · rw [hr, hv, Int.cast_natCast, hround]
  · rw [hr, hv, Int.cast_neg, Int.cast_natCast, hround]

/-- R154: from 2^31 on the value is a multiple of 256. -/
theorem val_eq_256_mul {w : Word} (h : 2 ^ 31 ≤ |val w|) : ∃ k : ℤ, val w = 256 * k := by
  obtain ⟨k, hk⟩ := val_eq_two_pow_mul (j := 8) (two_pow_dvd_magnitude ((le_abs_val_iff 31 w).1 h))
  exact ⟨k, by rw [hk]; norm_num⟩

theorem fromradAngle_of_large {p : Params} {x : Word} (hx : isFinite x = true)
    (hp : isFinite (fmul x p.radScale) = true) (h : 2 ^ 31 ≤ |val (fmul x p.radScale)|) :
    fromradAngle p x = 0#8 := by
  obtain ⟨k, hk⟩ := val_eq_256_mul h
  have hround : roundToInt p.fromradRound (fmul x p.radScale) = 256 * k := by
    have hval := roundToInt_eq_val p.fromradRound (le_trans (by norm_num) h)
    rw [hk] at hval
    exact_mod_cast hval
  rw [fromradAngle_of_finite hx hp, hround, ← ofInt_emod_256, Int.mul_emod_right]
  rfl

/-! ## The thresholds of the default scale -/

theorem isFinite_defaultScale : isFinite defaultParams.radScale = true := by decide

theorem product_of_largest_subnormal :
    fmul 0x007FFFFF#32 defaultParams.radScale = 0x04225689#32 := by decide

/-- R153: the product just below 1/2, and the one that is exactly 1/2. -/
theorem product_below_half : fmul 0x3B49D9B3#32 defaultParams.radScale = 0x3EFFFFFE#32 := by decide

theorem product_half : fmul 0x3B49D9B4#32 defaultParams.radScale = 0x3F000000#32 := by decide

/-- R154: the product that is exactly 2^31. -/
theorem product_two_pow_31 : fmul 0x4B49D9B4#32 defaultParams.radScale = 0x4F000000#32 := by decide

/-- R152: the largest finite product, and the least operand whose product overflows. -/
theorem product_below_overflow :
    fmul 0x7BC9D9B3#32 defaultParams.radScale = 0x7F7FFFFE#32 := by decide

theorem product_overflow : fmul 0x7BC9D9B4#32 defaultParams.radScale = 0x7F800000#32 := by decide

theorem magnitude_product_mono {v w : Word} (hv : isFinite v = true) (hw : isFinite w = true)
    (h : v.toNat % 2 ^ 31 ≤ w.toNat % 2 ^ 31) :
    magnitude (fmul v defaultParams.radScale) ≤ magnitude (fmul w defaultParams.radScale) :=
  magnitude_mono (fmul_mono hv hw isFinite_defaultScale h)

/-- R152: with the default scale the product overflows exactly from 0x7BC9D9B4 on. -/
theorem defaultScale_overflow_iff {x : Word} (hx : isFinite x = true) :
    isFinite (fmul x defaultParams.radScale) = false ↔ 0x7BC9D9B4 ≤ x.toNat % 2 ^ 31 := by
  rw [isFinite_false_iff]
  constructor
  · intro h
    by_contra hlt
    have hle := fmul_mono (w := 0x7BC9D9B3#32) hx (by decide) isFinite_defaultScale
      (Nat.le_of_lt_succ (not_le.1 hlt))
    rw [product_below_overflow] at hle
    exact absurd (h.trans hle) (by decide)
  · intro h
    have hle := fmul_mono (v := 0x7BC9D9B4#32) (by decide) hx isFinite_defaultScale h
    rw [product_overflow] at hle
    exact hle

theorem val_defaultScale : val defaultParams.radScale = 0xA2568A / 2 ^ 16 := by
  have h : signedUnits defaultParams.radScale = 0xA2568A * 2 ^ 133 := by decide
  rw [val_eq_signedUnits, h]
  norm_num

/-- R152: an operand that overflows is a multiple of 2^24, and the default scale one of 2^-16. -/
theorem exact_product_eq_256_mul {x : Word} (h : 0x7BC9D9B4 ≤ x.toNat % 2 ^ 31) :
    ∃ k : ℤ, val x * val defaultParams.radScale = 256 * k := by
  have hmag : 2 ^ (173 + 23) ≤ magnitude x :=
    le_trans (by decide) (magnitude_mono (v := 0x7BC9D9B4#32) h)
  obtain ⟨k, hk⟩ := val_eq_two_pow_mul (j := 24) (two_pow_dvd_magnitude hmag)
  exact ⟨k * 0xA2568A, by rw [hk, val_defaultScale]; push_cast; ring⟩

/-- R153: with the default scale a product is below one half up to 0x3B49D9B3. -/
theorem product_small_of_le {x : Word} (h : x.toNat % 2 ^ 31 ≤ 0x3B49D9B3) :
    isFinite x = true ∧ 2 * magnitude (fmul x defaultParams.radScale) < unitsPerOne := by
  have hx : isFinite x = true := (isFinite_iff x).2 (by omega)
  have hle := magnitude_product_mono (w := 0x3B49D9B3#32) hx (by decide) h
  rw [product_below_half] at hle
  exact ⟨hx, lt_of_le_of_lt (Nat.mul_le_mul_left 2 hle) (by decide)⟩

/-- R153: the product of a zero or subnormal, by that of the largest subnormal. -/
theorem abs_val_product_of_subnormal {x : Word} (h : expField x = 0) :
    |val (fmul x defaultParams.radScale)| ≤ 191 / 10 ^ 38 := by
  have hlow : x.toNat % 2 ^ 31 ≤ 0x007FFFFF := by
    rw [expField_eq_div] at h
    omega
  have hle := magnitude_product_mono (w := 0x007FFFFF#32) (product_small_of_le (by omega)).1
    (by decide) hlow
  have hmag : magnitude 0x04225689#32 = 1361790080 := by decide
  rw [product_of_largest_subnormal, hmag] at hle
  have hle' : (magnitude (fmul x defaultParams.radScale) : ℚ) ≤ 1361790080 := by exact_mod_cast hle
  rw [abs_val, div_le_iff₀ (by exact_mod_cast unitsPerOne_pos)]
  refine hle'.trans ?_
  norm_num [unitsPerOne]

/-- R154: with the default scale a product has at least the value 2^31 from 0x4B49D9B4 on. -/
theorem abs_val_product_of_large {x : Word} (hx : isFinite x = true)
    (h : 0x4B49D9B4 ≤ x.toNat % 2 ^ 31) : 2 ^ 31 ≤ |val (fmul x defaultParams.radScale)| := by
  have hle := magnitude_product_mono (v := 0x4B49D9B4#32) (by decide) hx h
  rw [product_two_pow_31] at hle
  exact (le_abs_val_iff 31 _).2 (le_trans (by decide) hle)

/-! ## The round trip through RAD_ROM -/

/-- The round trip of a byte is FROMRAD of its RAD_ROM word. -/
theorem roundTrip_of_word (b : Angle) {w : Word} (h : radRomAt State.reset b.toNat = w) (p : Params) :
    roundTrip p b = fromradAngle p w := by
  have hword : wordOf (.torad b) State.reset = some w := by
    rw [← h, ← romReadRad_eq]
    exact wordOf_of_outcome_ok rfl
  rw [roundTrip, hword, Option.getD_some]
  exact angleOf_of_outcome_ok (outcomeOf_fromrad _ _)

/-- The RAD_ROM words of the bytes R156 names. -/
theorem radRom_tie_words :
    radRomAt State.reset 96 = 0x4016CBE4#32 ∧ radRomAt State.reset 224 = 0x40AFEDDF#32 ∧
    radRomAt State.reset 160 = 0x407B53D1#32 ∧ radRomAt State.reset 32 = 0x3F490FDB#32 := by
  decide +kernel

/-- Their products in units of 2^-149: three are odd multiples of one half. -/
theorem tie_product_units :
    signedUnits (fmul 0x4016CBE4#32 defaultParams.radScale) = 765 * 2 ^ 148 ∧
    signedUnits (fmul 0x40AFEDDF#32 defaultParams.radScale) = 1785 * 2 ^ 148 ∧
    signedUnits (fmul 0x407B53D1#32 defaultParams.radScale) = 1275 * 2 ^ 148 ∧
    signedUnits (fmul 0x3F490FDB#32 defaultParams.radScale) = 16711681 * 2 ^ 132 := by
  decide

/-- R156: the bytes whose round trip `TowardZero` changes. -/
theorem towardZero_differs_on_half :
    ((List.range 256).filter fun b =>
      roundTrip { defaultParams with fromradRound := .towardZero } (BitVec.ofNat 8 b) ≠
        roundTrip defaultParams (BitVec.ofNat 8 b)).length = 128 := by
  decide +kernel

/-! ## The statements of the conversion rules -/

/-- Settles O42: a product that is no number answers the parameter, and by monotonicity the two patterns
beside the threshold decide which products of the default scale overflow. -/
theorem nonfiniteProductsGiveTheParameter : Obligations.NonfiniteProductsGiveTheParameter := by
  refine ⟨fun x s h => exec_of_outcome_ok ?_, rfl, fun x hx =>
    ⟨defaultScale_overflow_iff hx, exact_product_eq_256_mul⟩⟩
  have hnot : isFinite x = false ∨ isFinite (fmul x s.params.radScale) = false :=
    h.imp_right isFinite_false_of_infinity
  rw [outcomeOf_fromrad, fromradAngle_of_not_finite hnot, zext32_eq_ofNat rfl]

/-- Settles O43: below the pattern 0x3B49D9B4 every product is below one half, and such a product rounds
to 0 in each mode. -/
theorem tinyRadiansGiveAngleZero : Obligations.TinyRadiansGiveAngleZero := by
  refine ⟨fun m x => ⟨fun hx => ⟨abs_val_product_of_subnormal hx, ?_⟩, fun hx hp => ?_⟩,
    fun x hx h => ?_, ?_, by decide, fun x hx => ?_⟩
  · have hlow : x.toNat % 2 ^ 31 ≤ 0x3B49D9B3 := by
      have he : expField x = 0 := hx
      rw [expField_eq_div] at he
      omega
    obtain ⟨hfin, hsmall⟩ := product_small_of_le hlow
    exact fromradAngle_of_small hfin hsmall
  · have hlt := magnitude_lt (fmul x defaultParams.radScale)
    have he : expField (fmul x defaultParams.radScale) = 0 := hp
    rw [he] at hlt
    have hsmall : 2 * 2 ^ (0 + 23) ≤ unitsPerOne := by decide
    exact fromradAngle_of_small hx ((Nat.mul_lt_mul_of_pos_left hlt Nat.two_pos).trans_le hsmall)
  · exact fromradAngle_of_small hx (two_mul_magnitude_lt_of_abs_val_lt_half h)
  · have hhalf : signedUnits 0x3F000000#32 = 2 ^ 148 := by decide
    rw [product_half, val_eq_signedUnits, hhalf]
    norm_num
  · obtain ⟨hfin, hsmall⟩ := product_small_of_le (x := x) (by omega)
    exact fromradAngle_of_small hfin hsmall

/-- Settles O44: a large magnitude is a whole number of ones, and then of 256s, because a significand has
24 bits; the default scale reaches 2^31 at 0x4B49D9B4. -/
theorem largeProductsWrapToZero : Obligations.LargeProductsWrapToZero := by
  refine ⟨fun p m _ => ⟨roundToInt_eq_val m, val_eq_256_mul⟩,
    fun x q => fromradAngle_of_large,
    fun x hx h => ⟨fun _ => abs_val_product_of_large hx h, ?_⟩, fun x q hx hp => ?_⟩
  · cases hp : isFinite (fmul x defaultParams.radScale) with
    | false => exact fromradAngle_of_not_finite (.inr hp)
    | true => exact fromradAngle_of_large hx hp (abs_val_product_of_large hx h)
  · rw [fromradAngle_of_finite hx hp]
    exact ⟨fun h => by rw [h]; rfl, fun h => by rw [h]; rfl⟩

/-- Settles O46: the four RAD_ROM words, their exact products, and FROMRAD of each under the two modes. -/
theorem roundTripTiesSeparateTheModes : Obligations.RoundTripTiesSeparateTheModes := by
  obtain ⟨w96, w224, w160, w32⟩ := radRom_tie_words
  obtain ⟨h96, h224, h160, h32⟩ := tie_product_units
  simp only [Obligations.RoundTripTiesSeparateTheModes, w96, w224, w160, w32, val_eq_signedUnits,
    h96, h224, h160, h32]
  exact ⟨by norm_num, by norm_num, by norm_num, by norm_num [abs_le],
    (roundTrip_of_word 96#8 w96 _).trans (by decide), (roundTrip_of_word 224#8 w224 _).trans (by decide),
    (roundTrip_of_word 96#8 w96 _).trans (by decide), (roundTrip_of_word 224#8 w224 _).trans (by decide),
    (roundTrip_of_word 160#8 w160 _).trans (by decide), (roundTrip_of_word 160#8 w160 _).trans (by decide),
    towardZero_differs_on_half⟩

end Sys2Proof.Machine

/-! SUPPORT. R181 and R183 of 60_exceptions.md: DIV and REM by the zero angle raise DIVZERO and no other
command fails; and R195: a stopped clock holds everything. -/

namespace Sys2Proof.Machine

open Claims

/-! ## Which outcomes are failures -/

/-- STATUS is OK but for a raised status. -/
theorem respond_status_ok_iff (o : CmdOutcome) (s : State) :
    (respond o s).status = 0b00#2 ↔ ∀ f, o ≠ .raised f := by
  cases o with
  | ok r => simp [Status.ok]
  | raised f => cases f <;> simp [Failure.code, Status.divzero, Status.illegal]

/-- STATUS names the outcome DIVZERO, and no other. -/
theorem respond_status_divzero_iff (o : CmdOutcome) (s : State) :
    (respond o s).status = 0b01#2 ↔ o = .raised .divzero := by
  cases o with
  | ok r => simp [Status.ok]
  | raised f => cases f <;> simp [Failure.code, Status.divzero, Status.illegal]

/-- The one failure of a command is DIVZERO, raised by DIV and REM by the zero angle (R181, R183). -/
theorem outcomeOf_raised_iff {i : Instr} {s : State} {f : Failure} :
    outcomeOf i s = .raised f ↔ f = .divzero ∧ ∃ a, i = .div a 0#8 ∨ i = .rem a 0#8 := by
  refine ⟨outcomeOf_raised, ?_⟩
  rintro ⟨rfl, a, rfl | rfl⟩
  · exact outcomeOf_div_zero a s
  · exact outcomeOf_rem_zero a s

/-- A raised status changes the registers, the record and the response mark alone (R181, R189). -/
theorem failedWith_respond_raised (f : Failure) (s : State) :
    FailedWith f f.code s (respond (.raised f) s) :=
  ⟨rfl, rfl, rfl, rfl, respond_sameTables (.raised f) s, rfl, rfl, rfl⟩

/-! ## The words that divide by zero -/

/-- The decoder tests RSV before it dispatches on OP (30_encoding.md R73), so the word of a command has a
clear reserved field and the command's opcode. -/
theorem fields_of_decode_ok {w : CmdWord} {i : Instr} (h : decode w = .ok i) :
    rsvField w = 0#4 ∧ opField w = Laws.EncodedForm.opcode i := by
  unfold decode at h
  split at h
  · cases h
  · next hr =>
    refine ⟨not_not.1 hr, ?_⟩
    split at h <;> cases h <;> assumption

theorem decode_div {w : CmdWord} (hr : rsvField w = 0#4) (ho : opField w = 0x5#4) :
    decode w = .ok (.div (operandA w) (operandB w)) := by
  simp [decode, hr, ho]

theorem decode_rem {w : CmdWord} (hr : rsvField w = 0#4) (ho : opField w = 0x6#4) :
    decode w = .ok (.rem (operandA w) (operandB w)) := by
  simp [decode, hr, ho]

/-- The words that decode to DIV or REM by the zero angle, by their fields. -/
theorem decode_zero_divisor_iff_fields (w : CmdWord) :
    (∃ a, decode w = .ok (.div a 0#8) ∨ decode w = .ok (.rem a 0#8)) ↔
      rsvField w = 0#4 ∧ (opField w = 0x5#4 ∨ opField w = 0x6#4) ∧ operandB w = 0#8 := by
  constructor
  · rintro ⟨a, h | h⟩ <;> obtain ⟨hr, ho⟩ := fields_of_decode_ok h
    · rw [decode_div hr ho] at h
      injection h with h
      injection h with _ hb
      exact ⟨hr, .inl ho, hb⟩
    · rw [decode_rem hr ho] at h
      injection h with h
      injection h with _ hb
      exact ⟨hr, .inr ho, hb⟩
  · rintro ⟨hr, ho | ho, hb⟩
    · exact ⟨operandA w, .inl (hb ▸ decode_div hr ho)⟩
    · exact ⟨operandA w, .inr (hb ▸ decode_rem hr ho)⟩

/-- An accepted word raises DIVZERO where it decodes to DIV or REM by the zero angle. -/
theorem wordOutcome_divzero_iff (w : CmdWord) (s : State) :
    wordOutcome w s = .raised .divzero ↔
      ∃ a, decode w = .ok (.div a 0#8) ∨ decode w = .ok (.rem a 0#8) := by
  unfold wordOutcome
  cases decode w with
  | error e => simp
  | ok i => simp [outcomeOf_raised_iff]

/-- The words of DIV and REM by the zero angle, by the word's number. -/
theorem decode_zero_divisor_iff (w : CmdWord) :
    (∃ a, decode w = .ok (.div a 0#8) ∨ decode w = .ok (.rem a 0#8)) ↔
      w.toNat / 2 ^ 40 % 16 = 0 ∧ w.toNat / 2 ^ 44 ∈ [0x5, 0x6] ∧ w.toNat / 2 ^ 32 % 256 = 0 := by
  have := w.isLt
  rw [decode_zero_divisor_iff_fields]
  simp only [rsvField, opField, operandB, ← BitVec.toNat_inj, Laws.EncodedForm.toNat_field,
    BitVec.toNat_ofNat, List.mem_cons, List.not_mem_nil, or_false]
  omega

/-! ## The statements of the exceptions -/

/-- Settles O17: STATUS names the outcome, DIVZERO is the outcome of the words that decode to a division by
zero, and a raised status leaves the rest alone. -/
theorem divzeroExactlyOnTheZeroDivisor : Obligations.DivzeroExactlyOnTheZeroDivisor := by
  intro s w rest hb hi
  obtain ⟨t, h⟩ : ∃ t, step s = .next t := by
    rw [step_cons hi]
    exact clockEdge_next _ _
  have ht := step_accept hb hi h
  have hstatus : t.status = 0b01#2 ↔ wordOutcome w s = .raised .divzero := by
    rw [ht, respond_status_divzero_iff]
  refine ⟨t, h, ?_, fun hdivzero => ?_⟩
  · rw [hstatus, wordOutcome_divzero_iff, decode_zero_divisor_iff]
  · rw [ht, hstatus.1 hdivzero]
    exact failedWith_respond_raised .divzero (withInputs s rest)

/-- Settles O50: exec answers the response to the command's outcome, whose one failure is DIVZERO. -/
theorem noOtherCommandFails : Obligations.NoOtherCommandFails := by
  intro i s
  refine ⟨_, exec_eq_respond i s, respond_rspValid _ s, ?_⟩
  simp only [respond_status_ok_iff, ne_eq, outcomeOf_raised_iff, not_and, forall_eq]

/-- Settles O8: a stopped clock leaves the state as it is, its event taken off the list. -/
theorem stoppedClockHoldsEverything : Obligations.StoppedClockHoldsEverything := by
  intro s rest h
  rw [step_cons h]
  rfl

end Sys2Proof.Machine

/-! SUPPORT. R215 to R217 of 70_reset_and_hazards.md: every presented word is accepted, an unstable edge has
no step, and the outcome stands until the next command, whose own outcome is that of `Execute` on the word. -/

namespace Sys2Proof.Machine

open Claims

/-! ## The outcome of each command in integers -/

theorem outcomeOf_neg_eq (a : Angle) (s : State) :
    outcomeOf (.neg a) s = .ok (BitVec.ofInt 32 ((0 - (a.toNat : Int)) % 256)) :=
  congrArg CmdOutcome.ok (zext32_eq_ofInt (toNat_sub_eq_emod 0#8 a))

theorem outcomeOf_add_eq (a b : Angle) (s : State) :
    outcomeOf (.add a b) s = .ok (BitVec.ofNat 32 ((a.toNat + b.toNat) % 256)) :=
  congrArg CmdOutcome.ok (zext32_eq_ofNat (BitVec.toNat_add a b))

theorem outcomeOf_sub_eq (a b : Angle) (s : State) :
    outcomeOf (.sub a b) s = .ok (BitVec.ofInt 32 (((a.toNat : Int) - b.toNat) % 256)) :=
  congrArg CmdOutcome.ok (zext32_eq_ofInt (toNat_sub_eq_emod a b))

theorem outcomeOf_mul_eq (a b : Angle) (s : State) :
    outcomeOf (.mul a b) s = .ok (BitVec.ofNat 32 (a.toNat * b.toNat % 256)) :=
  congrArg CmdOutcome.ok (zext32_eq_ofNat (BitVec.toNat_mul a b))

theorem outcomeOf_div_eq (a b : Angle) (s : State) :
    outcomeOf (.div a b) s =
      if b.toNat = 0 then .raised .divzero else .ok (BitVec.ofNat 32 (a.toNat / b.toNat)) := by
  split
  next hb =>
    obtain rfl : b = 0#8 := BitVec.eq_of_toNat_eq hb
    exact outcomeOf_div_zero a s
  next hb =>
    rw [outcomeOf_div (angle_ne_zero_of_toNat hb), zext32_eq_ofNat (BitVec.toNat_udiv ..)]

theorem outcomeOf_rem_eq (a b : Angle) (s : State) :
    outcomeOf (.rem a b) s =
      if b.toNat = 0 then .raised .divzero
      else .ok (BitVec.ofNat 32 (a.toNat - b.toNat * (a.toNat / b.toNat))) := by
  split
  next hb =>
    obtain rfl : b = 0#8 := BitVec.eq_of_toNat_eq hb
    exact outcomeOf_rem_zero a s
  next hb =>
    rw [outcomeOf_rem (angle_ne_zero_of_toNat hb), zext32_eq_ofNat (BitVec.toNat_umod ..),
      Nat.mod_eq_sub]

/-- The one-hot word is the sum of the three relations' bits, of which one holds (R107). -/
theorem outcomeOf_cmp_eq (a b : Angle) (s : State) :
    outcomeOf (.cmp a b) s = .ok (BitVec.ofNat 32
      ((if a.toNat > b.toNat then 4 else 0) + (if a.toNat < b.toNat then 2 else 0) +
        (if a.toNat = b.toNat then 1 else 0))) := by
  rw [outcomeOf]
  rcases angle_trichotomy a b with hlt | rfl | hgt
  · have h := BitVec.lt_def.1 hlt
    simp [orderingWord_of_lt hlt, h, h.ne, h.not_gt]
  · simp [orderingWord_of_eq]
  · have h := BitVec.lt_def.1 hgt
    simp [orderingWord_of_gt hgt, h, h.ne', h.not_gt]

theorem outcomeOf_sin_eq (a : Angle) (s : State) :
    outcomeOf (.sin a) s = .ok (flipSign (decide (a.toNat / 128 % 2 = 1))
      (sinRomAt s (if a.toNat / 64 % 2 = 1 then 64 - a.toNat % 64 else a.toNat % 64))) := by
  simp only [outcomeOf, sinWord_eq_flipSign, sinIndex, getLsbD_six, getLsbD_seven, decide_eq_true_eq]

theorem outcomeOf_cos_eq (a : Angle) (s : State) :
    outcomeOf (.cos a) s =
      .ok (flipSign (decide (a.toNat / 128 % 2 = 1) ^^ decide (a.toNat / 64 % 2 = 1))
        (sinRomAt s (if a.toNat / 64 % 2 = 1 then a.toNat % 64 else 64 - a.toNat % 64))) := by
  rw [outcomeOf, cosWord_eq_sinWord_add_64, sinWord_eq_flipSign, getLsbD_seven_add_64,
    sinIndex_add_64]
  simp only [getLsbD_six, getLsbD_seven, decide_eq_true_eq]

theorem outcomeOf_torad_eq (a : Angle) (s : State) :
    outcomeOf (.torad a) s = .ok (radRomAt s a.toNat) :=
  congrArg CmdOutcome.ok (romReadRad_eq s a)

/-- The wrapped integer is the angle's number, so extending the angle gives it back (R151). -/
theorem zext32_ofInt (z : Int) : zext32 (BitVec.ofInt 8 z) = BitVec.ofInt 32 (z % 256) := by
  refine zext32_eq_ofInt ?_
  rw [BitVec.toNat_ofInt]
  omega

theorem outcomeOf_fromrad_eq (x : Word) (s : State) :
    outcomeOf (.fromrad x) s = .ok (fromradResult s x) := by
  rw [outcomeOf_fromrad, fromradResult]
  split
  next h => rw [fromradAngle_of_finite h.1 h.2, zext32_ofInt]
  next h =>
    rw [not_and_or, Bool.not_eq_true, Bool.not_eq_true] at h
    rw [fromradAngle_of_not_finite h, zext32_eq_ofNat rfl]

/-! ## The decoder and the dispatch of `Execute` agree -/

theorem toNat_opField (w : CmdWord) : (opField w).toNat = w.toNat / 2 ^ 44 := by
  have := w.isLt
  rw [opField, Laws.EncodedForm.toNat_field]
  omega

theorem toNat_rsvField (w : CmdWord) : (rsvField w).toNat = w.toNat / 2 ^ 40 % 16 :=
  Laws.EncodedForm.toNat_field w 40 4

theorem toNat_operandA (w : CmdWord) : (operandA w).toNat = w.toNat % 256 := by
  rw [operandA_eq_ofNat, BitVec.toNat_ofNat]

theorem toNat_operandB (w : CmdWord) : (operandB w).toNat = w.toNat / 2 ^ 32 % 256 :=
  Laws.EncodedForm.toNat_field w 32 8

theorem operandX_eq_ofNat (w : CmdWord) : operandX w = BitVec.ofNat 32 w.toNat := by
  apply BitVec.eq_of_toNat_eq
  rw [operandX, Laws.EncodedForm.toNat_field, BitVec.toNat_ofNat, Nat.pow_zero, Nat.div_one]

/-- A word that is no command falls through the dispatch of `Execute` to ILLEGAL (R73, R76). -/
theorem execute_of_decode_error {w : CmdWord} (s : State) (h : ∃ e, decode w = .error e) :
    execute s w.toNat = .raised .illegal := by
  rw [decode_error_iff, ← Bool.not_eq_true, wellFormedWord_iff] at h
  simp only [execute]
  by_cases hrsv : w.toNat / 2 ^ 40 % 16 = 0
  · rw [if_neg (not_not.2 hrsv)]
    iterate 11 rw [if_neg (by omega)]
  · rw [if_pos hrsv]

/-- The command a word decodes to has the opcode and the operands that `Execute` reads (R71, R73). -/
theorem execute_of_decode_ok {w : CmdWord} {i : Instr} (s : State) (h : decode w = .ok i) :
    execute s w.toNat = outcomeOf i s := by
  obtain ⟨hr, -⟩ := fields_of_decode_ok h
  have hrsv : w.toNat / 2 ^ 40 % 16 = 0 := by rw [← toNat_rsvField, hr]; rfl
  simp only [decode, hr, ne_eq, not_true_eq_false, if_false] at h
  simp only [execute, hrsv, ne_eq, not_true_eq_false, if_false, ← toNat_opField, ← toNat_operandA,
    ← toNat_operandB, ← operandX_eq_ofNat]
  -- one case for each arm of the decoder's dispatch that answers a command
  split at h <;> cases h <;> next hop =>
    simp [hop, outcomeOf_neg_eq, outcomeOf_add_eq, outcomeOf_sub_eq, outcomeOf_mul_eq,
      outcomeOf_div_eq, outcomeOf_rem_eq, outcomeOf_cmp_eq, outcomeOf_sin_eq, outcomeOf_cos_eq,
      outcomeOf_torad_eq, outcomeOf_fromrad_eq]

/-- `Execute` on the word's number is what the machine's accepted word answers. -/
theorem execute_eq_wordOutcome (w : CmdWord) (s : State) :
    execute s w.toNat = wordOutcome w s := by
  rw [wordOutcome]
  cases h : decode w with
  | ok i => exact execute_of_decode_ok s h
  | error e => exact execute_of_decode_error s ⟨e, h⟩

/-- The registers take the outcome they are given (10_state.md R38). -/
theorem registersHold_respond (o : CmdOutcome) (s : State) : RegistersHold (respond o s) o := by
  refine ⟨respond_rspValid o s, ?_⟩
  cases o with
  | ok r => exact ⟨rfl, rfl⟩
  | raised f => cases f <;> rfl

/-! ## The edges of R215 and R216 -/

/-- A machine that has been reset has a next state for every presented word. -/
theorem step_present {s : State} {w : CmdWord} {rest : List HostEvent} (hb : s.booted = true)
    (hi : s.inputs = .edge { rst := false, cmdValid := true, cmd := w } :: rest) :
    step s = .next (respond (wordOutcome w s) (withInputs s rest)) := by
  obtain ⟨t, h⟩ : ∃ t, step s = .next t := by
    rw [step_cons hi]
    exact clockEdge_next _ _
  rw [h, step_accept hb hi h]

/-- Settles O6: the step is the response to the word's outcome, whatever the word. -/
theorem everyPresentedWordIsAccepted : Obligations.EveryPresentedWordIsAccepted := by
  intro s w rest hb hi
  exact ⟨_, step_present hb hi, respond_inputs _ _, respond_rspValid _ _⟩

/-- Settles O9: an unstable edge is the one event that is refused. -/
theorem unstableEdgeHasNoStep : Obligations.UnstableEdgeHasNoStep := by
  intro s rest h
  rw [step_cons h]
  rfl

/-! ## Idle edges and clock stops -/

/-- The event is a rising edge. -/
def isEdge : HostEvent → Bool
  | .edge _ => true
  | _ => false

theorem any_isEdge_iff (es : List HostEvent) : es.any isEdge = true ↔ ∃ p, HostEvent.edge p ∈ es := by
  rw [List.any_eq_true]
  constructor
  · rintro ⟨e, he, h⟩
    cases e with
    | edge p => exact ⟨p, he⟩
    | _ => cases h
  · rintro ⟨p, hp⟩
    exact ⟨_, hp, rfl⟩

/-- `s` after the quiet events `es`, with `rest` to come: RSP_VALID has fallen where an edge came, and
all else stands (70_reset_and_hazards.md R217). -/
def afterQuiet (es rest : List HostEvent) (s : State) : State :=
  { s with inputs := rest, rspValid := !es.any isEdge && s.rspValid }

theorem afterQuiet_nil {s : State} {rest : List HostEvent} (hi : s.inputs = rest) :
    afterQuiet [] rest s = s := by
  subst hi
  rfl

/-- What a list of quiet events does is what its first does and then the others. -/
theorem afterQuiet_cons (e : HostEvent) (es rest : List HostEvent) (s : State) :
    afterQuiet es rest (afterQuiet [e] (es ++ rest) s) = afterQuiet (e :: es) rest s := by
  cases he : isEdge e <;> simp [afterQuiet, he]

theorem step_quiet {s : State} {e : HostEvent} {rest : List HostEvent} (hb : s.booted = true)
    (hq : quiet e = true) (hi : s.inputs = e :: rest) : step s = .next (afterQuiet [e] rest s) := by
  rw [step_cons hi]
  cases e with
  | edge p =>
    simp only [quiet, Bool.and_eq_true, Bool.not_eq_true'] at hq
    exact clockEdge_idle hq.1 hb hq.2
  | clockStopped => rfl
  | _ => cases hq

/-- A run over quiet events goes on from the state they leave. -/
theorem run_quiet {s : State} {es rest : List HostEvent} (k : Nat) (hb : s.booted = true)
    (hq : ∀ e ∈ es, quiet e = true) (hi : s.inputs = es ++ rest) :
    Host.Core.run core (es.length + k) s = Host.Core.run core k (afterQuiet es rest s) := by
  induction es generalizing s with
  | nil =>
    have h : afterQuiet [] rest s = s := afterQuiet_nil hi
    rw [h, List.length_nil, Nat.zero_add]
  | cons e es ih =>
    obtain ⟨hqe, hqes⟩ := List.forall_mem_cons.1 hq
    have hstep : step s = .next (afterQuiet [e] (es ++ rest) s) := step_quiet hb hqe hi
    calc Host.Core.run core ((e :: es).length + k) s
      _ = Host.Core.run core (es.length + k + 1) s := by rw [List.length_cons, Nat.add_right_comm]
      _ = Host.Core.run core (es.length + k) (afterQuiet [e] (es ++ rest) s) := run_succ _ hstep
      _ = Host.Core.run core k (afterQuiet es rest (afterQuiet [e] (es ++ rest) s)) := ih hb hqes rfl
      _ = Host.Core.run core k (afterQuiet (e :: es) rest s) := by rw [afterQuiet_cons]

/-- Settles O55: the quiet events lower RSP_VALID at most, and the word after them is accepted with the
outcome that `Execute` gives it. -/
theorem outcomeStandsUntilTheNextCommand : Obligations.OutcomeStandsUntilTheNextCommand := by
  intro s es w rest hb hq hi
  refine ⟨⟨_, run_quiet 0 hb hq hi, rfl, rfl, rfl, fun hedge => ?_, fun hnone => ?_⟩,
    _, (run_quiet 1 hb hq hi).trans (run_succ 0 (step_present hb rfl)), respond_inputs _ _, ?_⟩
  · simp [afterQuiet, (any_isEdge_iff es).2 hedge]
  · rw [← any_isEdge_iff, Bool.not_eq_true] at hnone
    simp [afterQuiet, hnone]
  · rw [execute_eq_wordOutcome]
    exact registersHold_respond _ _

end Sys2Proof.Machine

/-! SUPPORT. R70 to R80 of 30_encoding.md: a command comes back from its own word, every word is a command that
keeps its meaningful bits or is rejected by name, and the bits a command ignores do not reach the step. -/

namespace Sys2Proof.Machine

/-! ## From a command to its word and back -/

/-- Settles O12: each field of a command's word reads back, and the opcode is the command's own arm of the
decoder's dispatch. -/
theorem decodeOfEncodeIsTheCommand : Obligations.DecodeOfEncodeIsTheCommand := by
  intro i _
  cases i <;>
    simp [encode, decode, Laws.EncodedForm.rsvField_commandWord, Laws.EncodedForm.opField_commandWord,
      Laws.EncodedForm.operandA_commandWord, Laws.EncodedForm.operandB_commandWord,
      Laws.EncodedForm.operandX_commandWord]

/-- Settles O11: six words of the field layout, one with no opcode, one with a reserved field. -/
theorem writtenWordsDecode : Obligations.WrittenWordsDecode :=
  ⟨rfl, rfl, rfl, rfl, rfl, rfl, rfl, rfl⟩

/-! ## The bits a word keeps -/

/-- A word is its four fields, A being the operand of FROMRAD (R71). -/
theorem word_eq_append_fields (w : CmdWord) :
    w = opField w ++ rsvField w ++ operandB w ++ operandX w := by
  apply BitVec.eq_of_getLsbD_eq
  intro j hj
  simp only [BitVec.getLsbD_append, opField, rsvField, operandB, operandX, BitVec.getLsbD_extractLsb']
  grind

/-- Keeping OP, RSV and some bits of B and A of a word with a clear reserved field gives a command word. -/
theorem and_append_mask {w : CmdWord} (h : rsvField w = 0#4) (mb : Angle) (mx : Word) :
    w &&& (0xF#4 ++ 0xF#4 ++ mb ++ mx) =
      commandWord (opField w) (operandB w &&& mb) (operandX w &&& mx) := by
  have hop : opField w &&& 0xF#4 = opField w := BitVec.and_allOnes
  calc w &&& (0xF#4 ++ 0xF#4 ++ mb ++ mx)
      = (opField w ++ rsvField w ++ operandB w ++ operandX w) &&& (0xF#4 ++ 0xF#4 ++ mb ++ mx) :=
        congrArg (· &&& _) (word_eq_append_fields w)
    _ = (opField w &&& 0xF#4) ++ (rsvField w &&& 0xF#4) ++ (operandB w &&& mb) ++
          (operandX w &&& mx) := by
        rw [BitVec.and_append, BitVec.and_append, BitVec.and_append]
    _ = commandWord (opField w) (operandB w &&& mb) (operandX w &&& mx) := by
        rw [hop, h, BitVec.zero_and, commandWord]

theorem operandX_and_low_byte (w : CmdWord) : operandX w &&& 0xFF#32 = zext32 (operandA w) := by
  have hmask : ∀ x : Nat, x &&& 0xFF = x % 2 ^ 8 := fun x => Nat.and_two_pow_sub_one_eq_mod x 8
  apply BitVec.eq_of_toNat_eq
  rw [toNat_zext32, toNat_operandA, BitVec.toNat_and, operandX_eq_ofNat, BitVec.toNat_ofNat,
    BitVec.toNat_ofNat, hmask]
  omega

/-- OP, RSV and the angle A. -/
theorem and_unary_mask {w : CmdWord} (h : rsvField w = 0#4) :
    w &&& 0xFF00000000FF#48 = commandWord (opField w) 0#8 (zext32 (operandA w)) := by
  have hmask : 0xFF00000000FF#48 = 0xF#4 ++ 0xF#4 ++ 0x00#8 ++ 0xFF#32 := rfl
  rw [hmask, and_append_mask h, operandX_and_low_byte, BitVec.and_zero]

/-- OP, RSV and both angles. -/
theorem and_binary_mask {w : CmdWord} (h : rsvField w = 0#4) :
    w &&& 0xFFFF000000FF#48 = commandWord (opField w) (operandB w) (zext32 (operandA w)) := by
  have hmask : 0xFFFF000000FF#48 = 0xF#4 ++ 0xF#4 ++ 0xFF#8 ++ 0xFF#32 := rfl
  have hb : operandB w &&& 0xFF#8 = operandB w := BitVec.and_allOnes
  rw [hmask, and_append_mask h, operandX_and_low_byte, hb]

/-- OP, RSV and the whole of A. -/
theorem and_fromrad_mask {w : CmdWord} (h : rsvField w = 0#4) :
    w &&& 0xFF00FFFFFFFF#48 = commandWord (opField w) 0#8 (operandX w) := by
  have hmask : 0xFF00FFFFFFFF#48 = 0xF#4 ++ 0xF#4 ++ 0x00#8 ++ 0xFFFFFFFF#32 := rfl
  have hx : operandX w &&& 0xFFFFFFFF#32 = operandX w := BitVec.and_allOnes
  rw [hmask, and_append_mask h, hx, BitVec.and_zero]

/-- The word of the command that a word decodes to keeps the word's meaningful bits (R72, R74). -/
theorem encode_of_decode_ok {w : CmdWord} {i : Instr} (h : decode w = .ok i) :
    encode i = w &&& meaningfulBits i := by
  obtain ⟨hr, -⟩ := fields_of_decode_ok h
  simp only [decode, hr, ne_eq, not_true_eq_false, if_false] at h
  -- one case for each arm of the decoder's dispatch that answers a command
  split at h <;> cases h <;> next hop =>
    simp only [encode, meaningfulBits, and_unary_mask hr, and_binary_mask hr, and_fromrad_mask hr, hop,
      BitVec.ofNat_eq_ofNat]

/-- A word with a clear reserved field is rejected by its opcode alone. -/
theorem decode_error_eq_reservedOpcode {w : CmdWord} {e : DecodeError} (hr : rsvField w = 0#4)
    (h : decode w = .error e) : e = .reservedOpcode (opField w) := by
  simp only [decode, hr, ne_eq, not_true_eq_false, if_false] at h
  split at h <;> cases h
  rfl

theorem rsvField_eq_zero_iff (w : CmdWord) : rsvField w = 0#4 ↔ w.toNat / 2 ^ 40 % 16 = 0 := by
  rw [← BitVec.toNat_inj, toNat_rsvField, BitVec.toNat_ofNat, Nat.zero_mod]

/-- Settles O13: the decoder accepts the legal words, whose commands keep their meaningful bits, and
names the field it rejects any other word by. -/
theorem everyWordDecodesOneWay : Obligations.EveryWordDecodesOneWay := by
  refine fun w => ⟨fun hw => ?_, fun hr => ?_, fun hr hw => ?_⟩
  · cases h : decode w with
    | ok i => exact ⟨i, rfl, encode_of_decode_ok h⟩
    | error e =>
      have hnot := (decode_error_iff w).1 ⟨e, h⟩
      rw [hw] at hnot
      cases hnot
  · rw [Ne, ← rsvField_eq_zero_iff] at hr
    exact if_pos hr
  · obtain ⟨e, h⟩ := (decode_error_iff w).2 hw
    rw [h, decode_error_eq_reservedOpcode ((rsvField_eq_zero_iff w).2 hr) h]

/-! ## The bits a word's opcode ignores -/

/-- The operands an opcode reads: A always, B for ADD to CMP, the whole of A for FROMRAD (R72, R74). -/
theorem decode_congr {v w : CmdWord} (hrsv : rsvField v = rsvField w) (hop : opField v = opField w)
    (ha : operandA v = operandA w) (hx : opField v = 0xB#4 → operandX v = operandX w)
    (hb : opField v ∈ [0x2#4, 0x3#4, 0x4#4, 0x5#4, 0x6#4, 0x7#4] → operandB v = operandB w) :
    decode v = decode w := by
  unfold decode
  rw [← hrsv, ← hop, ← ha]
  split
  · rfl
  · generalize opField v = op at hx hb
    split
    case h_2 | h_3 | h_4 | h_5 | h_6 | h_7 => rw [hb (by decide)]
    case h_11 => rw [hx rfl]
    all_goals rfl

/-- An edge looks at the presented word through the decoder alone. -/
theorem step_congr_of_decode {v w : CmdWord} (s : State) (rest : List HostEvent)
    (h : decode v = decode w) :
    step { s with inputs := .edge { rst := false, cmdValid := true, cmd := v } :: rest } =
      step { s with inputs := .edge { rst := false, cmdValid := true, cmd := w } :: rest } := by
  rw [step_cons rfl, step_cons rfl]
  simp only [hostEvent, clockEdge, acceptWord, h]
  rfl

/-- Settles O15: words that agree on the bits their opcode reads decode alike. -/
theorem ignoredBitsHaveNoEffect : Obligations.IgnoredBitsHaveNoEffect := by
  intro s v w rest htop hlow hx hb
  have hop : v.toNat / 2 ^ 44 = w.toNat / 2 ^ 44 := by omega
  refine step_congr_of_decode s rest (decode_congr ?_ ?_ ?_ (fun ho => ?_) (fun ho => ?_))
  · rw [← BitVec.toNat_inj, toNat_rsvField, toNat_rsvField, htop]
  · rw [← BitVec.toNat_inj, toNat_opField, toNat_opField, hop]
  · rw [← BitVec.toNat_inj, toNat_operandA, toNat_operandA]
    exact hlow
  · rw [operandX_eq_ofNat, operandX_eq_ofNat, ← BitVec.toNat_inj, BitVec.toNat_ofNat, BitVec.toNat_ofNat]
    refine hx ?_
    rw [← toNat_opField, ho]
    rfl
  · rw [← BitVec.toNat_inj, toNat_operandB, toNat_operandB]
    refine hb ?_
    rw [← toNat_opField]
    exact List.mem_map_of_mem (f := BitVec.toNat) ho

/-! ## The literals of the assembler -/

theorem assemble_eq_none_iff (l : Asm) : assemble l = none ↔ l.wellFormed = false := by
  unfold assemble
  cases l.wellFormed <;> simp

theorem angleLiteral_eq_false_iff (a : Nat) : angleLiteral a = false ↔ 255 < a := by
  rw [angleLiteral, decide_eq_false_iff_not, not_le]

/-- A line with one angle literal is refused by it. -/
theorem assemble_unary_eq_none_iff {f : Nat → Asm} (a : Nat)
    (hf : f ∈ [Asm.neg, Asm.sin, Asm.cos, Asm.torad, Asm.angle, Asm.polar]) :
    assemble (f a) = none ↔ 255 < a := by
  rw [assemble_eq_none_iff, ← angleLiteral_eq_false_iff]
  fin_cases hf <;> rfl

/-- Settles O58: a line is refused exactly where one of its literals is above 255. -/
theorem angleLiteralsOutsideAByteAreRefused : Obligations.AngleLiteralsOutsideAByteAreRefused := by
  refine fun a b => ⟨fun ha f hf => (assemble_unary_eq_none_iff a hf).2 ha,
    fun ha f hf h => ((assemble_unary_eq_none_iff a hf).1 h).not_ge ha, fun f hf => ?_⟩
  rw [assemble_eq_none_iff, ← angleLiteral_eq_false_iff, ← angleLiteral_eq_false_iff,
    ← Bool.and_eq_false_iff]
  fin_cases hf <;> rfl

end Sys2Proof.Machine

/-! SUPPORT. R37, R38 of 10_state.md, R189 of 60_exceptions.md and R210 to R214 of 70_reset_and_hazards.md: every
edge is the clocked update, reset suffices after power-up, the invariant and the sticky record. -/

namespace Sys2Proof.Machine

open Claims

/-! ## The invariant -/

/-- A response keeps the invariant in a machine that has been reset: a raised status is recorded as it is
set, and OK asks for no record (R189). -/
theorem inv_respond {s : State} (o : CmdOutcome) (hb : s.booted = true) : (respond o s).Inv := by
  cases o with
  | ok r =>
    exact ⟨fun _ => by simp [Status.ok], fun _ h => by simp at h, fun _ h => absurd rfl h, fun _ => hb⟩
  | raised f =>
    refine ⟨fun _ => ?_, fun _ h => by simp at h, fun _ _ => ⟨f, ?_, rfl⟩,
      fun _ => hb⟩
    · cases f <;> simp [Failure.code, Status.divzero, Status.illegal]
    · simp

/-- The reset values meet the invariant. -/
theorem inv_applyReset (s : State) : (applyReset s).Inv :=
  ⟨fun _ => by simp [Status.ok], fun _ _ => ⟨rfl, rfl, rfl⟩, fun _ h => absurd rfl h, fun _ => rfl⟩

/-- Nothing is asked of the registers before the first reset edge (R212). -/
theorem inv_of_unbooted {s : State} (hb : s.booted = false) (hr : s.responded = false) : s.Inv := by
  refine ⟨?_, ?_, ?_, ?_⟩ <;> simp [hb, hr]

theorem inv_idle {s : State} (h : s.Inv) : (idle s).Inv := by
  refine ⟨h.statusLegal, fun hb hr => ?_, h.failureRecorded, h.bootFirst⟩
  obtain ⟨hresult, hstatus, -⟩ := h.resetValuesHold hb hr
  exact ⟨hresult, hstatus, rfl⟩

/-- Neither the events to come nor what the host has read enters the invariant. -/
theorem inv_withInputs {s : State} (h : s.Inv) (es : List HostEvent) : (withInputs s es).Inv :=
  ⟨h.statusLegal, h.resetValuesHold, h.failureRecorded, h.bootFirst⟩

theorem inv_recordRead {s : State} (h : s.Inv) (r : HostRead) : (recordRead r s).Inv :=
  ⟨h.statusLegal, h.resetValuesHold, h.failureRecorded, h.bootFirst⟩

/-- Settles O52: each operation of a step keeps the invariant or establishes it. -/
theorem invariantKeptByEveryStep : Obligations.InvariantKeptByEveryStep := by
  intro s t hinv h
  obtain ⟨-, rfl⟩ | ⟨e, rest, -, hreset | hdraw | haccept | hidle | hpoll | hsample |
      hstop | hpower⟩ := step_cases h
  · exact hinv
  · obtain ⟨p, -, -, rfl⟩ := hreset
    exact inv_applyReset _
  · obtain ⟨p, -, -, hb, rfl⟩ := hdraw
    have hr : s.responded = false :=
      Bool.eq_false_iff.2 fun hr => by simpa [hb] using hinv.bootFirst hr
    exact inv_of_unbooted hb hr
  · obtain ⟨p, -, -, hb, -, rfl⟩ := haccept
    exact inv_respond _ hb
  · obtain ⟨p, -, -, -, -, rfl⟩ := hidle
    exact inv_idle (inv_withInputs hinv rest)
  · obtain ⟨-, rfl⟩ := hpoll
    exact inv_recordRead (inv_withInputs hinv rest) _
  · obtain ⟨-, rfl⟩ := hsample
    exact inv_recordRead (inv_withInputs hinv rest) _
  · obtain ⟨-, rfl⟩ := hstop
    exact inv_withInputs hinv rest
  · obtain ⟨-, rfl⟩ := hpower
    exact inv_of_unbooted rfl rfl

/-- Settles O53: the state after reset is one that a reset edge leaves. -/
theorem invariantHoldsAtReset : Obligations.InvariantHoldsAtReset := inv_applyReset State.reset

/-! ## The reset edge -/

theorem step_edge {s : State} {p : PortInputs} {rest : List HostEvent} (hi : s.inputs = .edge p :: rest) :
    step s = clockEdge p (withInputs s rest) := step_cons hi

theorem step_reset {s : State} {p : PortInputs} {rest : List HostEvent} (hr : p.rst = true)
    (hi : s.inputs = .edge p :: rest) : step s = .next (applyReset (withInputs s rest)) :=
  (step_edge hi).trans (clockEdge_rst hr)

theorem step_sample {s : State} {rest : List HostEvent} (hi : s.inputs = .sample :: rest) :
    step s = .next (hostSample (withInputs s rest)) := step_cons hi

/-- Before the first response a read of all ports is recorded without a value (R211). -/
theorem step_early_sample {s : State} {rest : List HostEvent} (hi : s.inputs = .sample :: rest)
    (hr : s.responded = false) : step s =
      .next { s with inputs := rest, samples := s.samples ++ [.early s.rspValid] } := by
  rw [step_sample hi, hostSample, sampledRead_early (by simpa using hr)]
  rfl

/-- After a response a read of all ports gives the registers (R39, R211). -/
theorem step_sample_responded {s : State} {rest : List HostEvent} (hi : s.inputs = .sample :: rest)
    (hr : s.responded = true) : step s = .next { s with
      inputs := rest
      samples := s.samples ++
        [.response { valid := s.rspValid, result := s.result, status := s.status }] } := by
  rw [step_sample hi, hostSample, sampledRead_of_responded (by simpa using hr)]
  rfl

/-- Settles O1: reset comes first at an edge, and no response stands after it. -/
theorem resetEdgeWritesResetValues : Obligations.ResetEdgeWritesResetValues := by
  intro s v w rest hi
  have hstep := step_reset (s := s) rfl hi
  refine ⟨hstep, fun rest' hrest t ht => ?_⟩
  rw [hstep] at ht
  cases ht
  exact step_early_sample hrest rfl

/-- Settles O2: the fields of the state after reset. -/
theorem resetStateAsSpecified : Obligations.ResetStateAsSpecified :=
  ⟨rfl, rfl, rfl, rfl, rfl, rfl, rfl, rfl, rfl, rfl⟩

/-- Settles O7: a read is recorded as it stands, with a value where a response has come. -/
theorem hostReadFaultsBeforeTheFirstResponse : Obligations.HostReadFaultsBeforeTheFirstResponse := by
  refine fun s rest => ⟨fun hi => ⟨fun hinv hb hr => ?_, fun hr => ?_, step_sample_responded hi⟩,
    fun hi => step_cons hi⟩
  · obtain ⟨hresult, hstatus, -⟩ := hinv.resetValuesHold hb hr
    exact ⟨hresult, hstatus⟩
  · refine ⟨_, step_early_sample hi hr, fun hclean => ?_, rfl⟩
    have hearly := hclean.2 (.early s.rspValid) (by simp)
    cases hearly

/-! ## Power-up and reset -/

theorem step_powerOn {s : State} {rest : List HostEvent} (hi : s.inputs = .powerOn :: rest) :
    step s = .next (powerUp (withInputs s rest)) := step_cons hi

/-- The tables and both records of `t` are those of `s`: what an edge before the first reset edge leaves
alone (R212). -/
structure SameTablesAndRecords (s t : State) : Prop where
  tables : SameTables s t
  failures : t.failures = s.failures
  samples : t.samples = s.samples

/-- Edges without reset, before the first reset edge, write the registers alone. -/
theorem run_unbooted_edges {s : State} {es : List PortInputs} {rest : List HostEvent} (k : Nat)
    (hb : s.booted = false) (hes : ∀ p ∈ es, p.rst = false)
    (hi : s.inputs = es.map .edge ++ rest) :
    ∃ t, Host.Core.run core (es.length + k) s = Host.Core.run core k t ∧ t.inputs = rest ∧
      SameTablesAndRecords s t := by
  induction es generalizing s with
  | nil => exact ⟨s, by rw [List.length_nil, Nat.zero_add], hi, ⟨rfl, rfl, rfl⟩, rfl, rfl⟩
  | cons p es ih =>
    obtain ⟨hp, hes⟩ := List.forall_mem_cons.1 hes
    have hstep : step s = .next (drawRegisters (withInputs s (es.map .edge ++ rest))) :=
      (step_edge hi).trans (clockEdge_unbooted hp hb)
    obtain ⟨t, hrun, hinputs, hsame⟩ :=
      ih (s := drawRegisters (withInputs s (es.map .edge ++ rest))) hb hes rfl
    refine ⟨t, ?_, hinputs, hsame.tables, hsame.failures, hsame.samples⟩
    rw [List.length_cons, Nat.add_right_comm, run_succ _ hstep, hrun]

/-- Settles O10: power-up unboots the machine, the edges without reset write the registers alone, and the
reset edge gives the registers their reset values. -/
theorem powerUpThenOneResetEdgeSuffices : Obligations.PowerUpThenOneResetEdgeSuffices := by
  intro s es r rest hes hr hi
  obtain ⟨t, hrun, hinputs, hsame⟩ := run_unbooted_edges 1
    (s := powerUp (withInputs s (es.map .edge ++ .edge r :: rest))) rfl hes rfl
  refine ⟨applyReset (withInputs t rest), ?_, rfl, hsame.tables, rfl, rfl, rfl, rfl, rfl, hsame.failures,
    hsame.samples⟩
  calc Host.Core.run core (es.length + 2) s
    _ = Host.Core.run core (es.length + 1) (powerUp (withInputs s _)) := run_succ _ (step_powerOn hi)
    _ = Host.Core.run core 1 t := hrun
    _ = .next (applyReset (withInputs t rest)) := run_succ 0 (step_reset hr hinputs)

/-! ## The accepted word -/

/-- Settles O4: the edge takes the word through the decoder to exec, or to an ILLEGAL failure. -/
theorem stepRunsTheDecodedCommand : Obligations.StepRunsTheDecodedCommand := by
  intro s w rest hb hi
  have hstep := step_present hb hi
  unfold wordOutcome at hstep
  refine ⟨fun i hd => ?_, fun e hd => ⟨_, hstep, ?_⟩⟩
  · rw [hd] at hstep
    rw [hstep, exec_eq_respond]
    rfl
  · rw [hd]
    exact failedWith_respond_raised .illegal (withInputs s rest)

/-- Settles O18: the decoder tests the reserved field before the opcode, so the word never gets to the
division. -/
theorem illegalIsDecidedBeforeDivzero : Obligations.IllegalIsDecidedBeforeDivzero := by
  intro s t w rest hb hi _ _ hrsv h
  exact (illegalExactlyOnReservedEncodings s t w rest hb hi h).2 (.inl hrsv)

/-- Settles O3: each of the four kinds of edge is one operation, and the accepted word's outcome is that of
`Execute`. -/
theorem everyEdgeIsTheClockedUpdate : Obligations.EveryEdgeIsTheClockedUpdate := by
  intro s p rest hi
  have hedge := step_edge hi
  have hboot : (withInputs s rest).booted = s.booted := rfl
  cases hr : p.rst with
  | true =>
    rw [clockEdge_rst hr] at hedge
    exact ⟨_, hedge, rfl, ⟨rfl, rfl, rfl⟩, rfl, fun _ => ⟨rfl, rfl, rfl⟩, by simp, by simp⟩
  | false =>
    cases hb : s.booted with
    | false =>
      rw [clockEdge_unbooted hr (hboot.trans hb)] at hedge
      exact ⟨_, hedge, rfl, ⟨rfl, rfl, rfl⟩, rfl, by simp, by simp, by simp⟩
    | true =>
      cases hv : p.cmdValid with
      | false =>
        rw [clockEdge_idle hr (hboot.trans hb) hv] at hedge
        exact ⟨_, hedge, rfl, ⟨rfl, rfl, rfl⟩, rfl, by simp, by simp, fun _ _ _ => ⟨rfl, rfl, rfl⟩⟩
      | true =>
        rw [clockEdge_accept hr (hboot.trans hb) hv, wordOutcome_withInputs] at hedge
        refine ⟨_, hedge, respond_inputs _ _, respond_sameTables _ (withInputs s rest),
          respond_samples _ _, by simp, fun _ _ _ => ?_, by simp⟩
        rw [execute_eq_wordOutcome]
        exact registersHold_respond _ _

/-- Settles O56: by induction on the words, each answered at its own edge with tables that no word before
it has changed. -/
theorem responsesComeInOrder : Obligations.ResponsesComeInOrder := by
  intro s ws rest hb hi k hk
  induction ws generalizing s k with
  | nil => cases hk
  | cons w ws ih =>
    have hstep := step_present hb hi
    generalize hu : respond _ _ = u at hstep
    have hregs : RegistersHold u (wordOutcome w s) := hu ▸ registersHold_respond _ _
    have htables : SameTables s u := hu ▸ respond_sameTables _ (withInputs s _)
    cases k with
    | zero =>
      rw [List.getElem_cons_zero, execute_eq_wordOutcome]
      exact ⟨u, run_succ 0 hstep, htables, hregs⟩
    | succ k =>
      have hbu : u.booted = true := hu ▸ (respond_booted _ _).trans hb
      have hiu : u.inputs = ws.map present ++ rest := hu ▸ respond_inputs _ _
      obtain ⟨hsin, hrad, hparams⟩ := htables
      obtain ⟨t, hrun, ⟨hsin', hrad', hparams'⟩, hregs'⟩ := ih u hbu hiu k (Nat.lt_of_succ_lt_succ hk)
      refine ⟨t, (run_succ _ hstep).trans hrun,
        ⟨hsin'.trans hsin, hrad'.trans hrad, hparams'.trans hparams⟩, ?_⟩
      rw [execute_eq_wordOutcome, wordOutcome_congr _ hsin hrad hparams] at hregs'
      rwa [List.getElem_cons_succ, execute_eq_wordOutcome]

/-! ## The sticky record -/

/-- The entry that an outcome adds to the record of failures (R189). -/
def recordedFailures : CmdOutcome → List Failure
  | .ok _ => []
  | .raised f => [f]

@[simp] theorem respond_failures (o : CmdOutcome) (s : State) :
    (respond o s).failures = s.failures ++ recordedFailures o := by
  cases o with
  | ok r => exact (List.append_nil _).symm
  | raised f => rfl

/-- What an outcome adds to the record is named by the STATUS it sets. -/
theorem recordedFailures_eq (o : CmdOutcome) (s : State) :
    recordedFailures o = if (respond o s).status = 0b01#2 then [.divzero]
      else if (respond o s).status = 0b10#2 then [.illegal] else [] := by
  cases o with
  | ok r => rfl
  | raised f => cases f <;> rfl

/-- A step changes the two records in one way each: reads are appended, and a failure is recorded by an
accepted word alone. -/
theorem step_records {s t : State} (h : step s = .next t) :
    (∃ more, t.samples = s.samples ++ more) ∧
    (t.failures = s.failures ∨ ∃ (w : CmdWord) (rest : List HostEvent), s.booted = true ∧
      s.inputs = .edge { rst := false, cmdValid := true, cmd := w } :: rest ∧
      t = respond (wordOutcome w s) (withInputs s rest)) := by
  obtain ⟨-, rfl⟩ | ⟨e, rest, hi, hreset | hdraw | haccept | hidle | hpoll | hsample |
      hstop | hpower⟩ := step_cases h
  · exact ⟨⟨[], (List.append_nil _).symm⟩, .inl rfl⟩
  · obtain ⟨p, -, -, rfl⟩ := hreset
    exact ⟨⟨[], (List.append_nil _).symm⟩, .inl rfl⟩
  · obtain ⟨p, -, -, -, rfl⟩ := hdraw
    exact ⟨⟨[], (List.append_nil _).symm⟩, .inl rfl⟩
  · obtain ⟨⟨rst, v, w⟩, rfl, rfl, hb, rfl, rfl⟩ := haccept
    exact ⟨⟨[], by simp⟩, .inr ⟨w, rest, hb, hi, rfl⟩⟩
  · obtain ⟨p, -, -, -, -, rfl⟩ := hidle
    exact ⟨⟨[], (List.append_nil _).symm⟩, .inl rfl⟩
  · obtain ⟨-, rfl⟩ := hpoll
    exact ⟨⟨_, rfl⟩, .inl rfl⟩
  · obtain ⟨-, rfl⟩ := hsample
    exact ⟨⟨_, rfl⟩, .inl rfl⟩
  · obtain ⟨-, rfl⟩ := hstop
    exact ⟨⟨[], (List.append_nil _).symm⟩, .inl rfl⟩
  · obtain ⟨-, rfl⟩ := hpower
    exact ⟨⟨[], (List.append_nil _).symm⟩, .inl rfl⟩

/-- A clean record was clean before it was extended. -/
theorem noFailureRecorded_of_extension {s t : State} {fs : List Failure} {rs : List HostRead}
    (hf : t.failures = s.failures ++ fs) (hs : t.samples = s.samples ++ rs)
    (h : NoFailureRecorded t) : NoFailureRecorded s := by
  obtain ⟨hnone, hreads⟩ := h
  rw [hf, List.append_eq_nil_iff] at hnone
  exact ⟨hnone.1, fun r hr => hreads r (hs ▸ List.mem_append_left rs hr)⟩

/-- Settles O54: both records are only ever extended, the failures by the outcome of an accepted word. -/
theorem failureRecordIsSticky : Obligations.FailureRecordIsSticky := by
  intro s t h
  obtain ⟨⟨rs, hsamples⟩, hfailures⟩ := step_records h
  have hextend : ∃ fs, t.failures = s.failures ++ fs := by
    rcases hfailures with hkeep | ⟨w, rest, -, -, rfl⟩
    · exact ⟨[], by rw [hkeep, List.append_nil]⟩
    · exact ⟨_, respond_failures _ _⟩
  obtain ⟨fs, hfs⟩ := hextend
  refine ⟨⟨fs, hfs⟩, ⟨rs, hsamples⟩, noFailureRecorded_of_extension hfs hsamples, fun hno => ?_,
    fun w rest hb hi => ?_⟩
  · rcases hfailures with hkeep | ⟨w, rest, hb, hi, -⟩
    · exact hkeep
    · exact absurd ⟨w, rest, hb, hi⟩ hno
  · rw [step_accept hb hi h, respond_failures, ← recordedFailures_eq, withInputs_failures]

end Sys2Proof.Machine

/-! SUPPORT. R56 of 20_memory.md, the frame of the commands, TORAD and FROMRAD (42_conversion.md R150, R151), the
round trips under the two scales (R155, R157) and what the source asks of SIN and COS (41_trig.md). -/

namespace Sys2Proof.Machine

open Claims

/-! ## The frame of a command -/

/-- The free values that an outcome draws: RESULT after a failure (R40, log 3). -/
theorem respond_freeCount (o : CmdOutcome) (s : State) :
    (respond o s).freeCount = s.freeCount + (recordedFailures o).length := by
  cases o <;> rfl

theorem recordedFailures_of_zero_divisor {i : Instr} {s : State}
    (h : ∃ a, i = .div a 0#8 ∨ i = .rem a 0#8) : recordedFailures (outcomeOf i s) = [.divzero] := by
  rw [outcomeOf_raised_iff.2 ⟨rfl, h⟩, recordedFailures]

theorem recordedFailures_of_not_zero_divisor {i : Instr} {s : State}
    (h : ¬ ∃ a, i = .div a 0#8 ∨ i = .rem a 0#8) : recordedFailures (outcomeOf i s) = [] := by
  cases ho : outcomeOf i s with
  | ok r => rfl
  | raised f => exact absurd (outcomeOf_raised ho).2 h

/-- Settles O49: a command's response is the only thing exec does, and what it records is the outcome's
failure, raised by DIV and REM by the zero angle alone. -/
theorem commandsLeaveTheRestUnchanged : Obligations.CommandsLeaveTheRestUnchanged := by
  intro i s t h
  obtain rfl := exec_next_iff.1 h
  refine ⟨respond_sameTables _ s, respond_inputs _ s, respond_samples _ s, respond_booted _ s,
    fun hz => ?_, fun hz => ?_⟩
  · rw [respond_failures, respond_freeCount, recordedFailures_of_zero_divisor hz]
    exact ⟨rfl, rfl⟩
  · rw [respond_failures, respond_freeCount, recordedFailures_of_not_zero_divisor hz, List.append_nil]
    exact ⟨rfl, rfl⟩

/-! ## Which ROM word a command reads -/

theorem sinRomAt_eq_getElem (s : State) {i : Nat} (h : i ≤ 64) : sinRomAt s i = s.sinRom[i] :=
  (romReadSin_eq s ⟨i, Nat.lt_succ_of_le h⟩).symm

/-- SIN and COS of an angle depend on the SIN_ROM word at one index. -/
theorem sinWord_congr {s t : State} {a : Angle}
    (h : s.sinRom[sinIndex a]'(Nat.lt_succ_of_le (sinIndex_le a)) =
      t.sinRom[sinIndex a]'(Nat.lt_succ_of_le (sinIndex_le a))) : sinWord s a = sinWord t a := by
  rw [sinWord_eq_flipSign, sinWord_eq_flipSign, sinRomAt_eq_getElem s (sinIndex_le a), h,
    ← sinRomAt_eq_getElem t (sinIndex_le a)]

/-- A command but SIN, COS and TORAD takes its outcome from its operands and the parameters. -/
theorem outcomeOf_congr_of_params {s t : State} {i : Instr}
    (hi : ∀ a, i ≠ .sin a ∧ i ≠ .cos a ∧ i ≠ .torad a) (h : s.params = t.params) :
    outcomeOf i s = outcomeOf i t := by
  cases i with
  | sin a => exact absurd rfl (hi a).1
  | cos a => exact absurd rfl (hi a).2.1
  | torad a => exact absurd rfl (hi a).2.2
  | fromrad x => rw [outcomeOf_fromrad, outcomeOf_fromrad, h]
  | _ => rfl

/-- Settles O37: the index of the sine, that of the sine a quarter turn later, the whole byte, or none. -/
theorem commandsReadAtMostOneRomWord : Obligations.CommandsReadAtMostOneRomWord := by
  refine ⟨fun a => ⟨⟨sinIndex a, Nat.lt_succ_of_le (sinIndex_le a)⟩, fun s t h => ?_⟩,
    fun a => ⟨⟨sinIndex (a + 64#8), Nat.lt_succ_of_le (sinIndex_le _)⟩, fun s t h => ?_⟩,
    fun a s t h => ?_, fun i s s' t t' hi hp h h' => ?_⟩
  · rw [wordOf_sin, wordOf_sin, sinWord_congr h]
  · rw [wordOf_cos, wordOf_cos, cosWord_eq_sinWord_add_64, cosWord_eq_sinWord_add_64, sinWord_congr h]
  · exact congrArg some h
  · obtain rfl := exec_next_iff.1 h
    obtain rfl := exec_next_iff.1 h'
    rw [outcomeOf_congr_of_params hi hp]
    obtain ⟨hstatus, -, hresult⟩ := respond_registers_agree (outcomeOf i s') s s'
    exact ⟨hstatus, hresult⟩

/-! ## TORAD and FROMRAD -/

theorem wordOf_torad (a : Angle) (s : State) : wordOf (.torad a) s = some (romReadRad s a) :=
  wordOf_of_outcome_ok rfl

/-- With the reference default RAD_ROM, TORAD answers what it answers after reset. -/
theorem wordOf_torad_default {s : State} (h : s.radRom = defaultRadRom) (a : Angle) :
    wordOf (.torad a) s = wordOf (.torad a) State.reset := by
  simp only [wordOf_torad, romReadRad, h, State.reset]

/-- Settles O38: the outcome of TORAD is the word of the angle. -/
theorem toradIsTheTableLookup : Obligations.ToradIsTheTableLookup := by
  refine ⟨fun a s => exec_of_outcome_ok (outcomeOf_torad_eq a s), fun w h => ?_, fun s h => ?_⟩
  · simp [decode, fields_of_topByte 0xA#4 h, operandA_eq_ofNat]
  · simp only [wordOf_torad_default h]
    decide +kernel

/-- The product of 1.0 with the default scale is the scale. -/
theorem fmul_one_defaultScale : fmul 0x3F800000#32 defaultParams.radScale = 0x4322568A#32 := by decide

/-- Settles O39: the outcome of FROMRAD is the wrapped product, or the parameter. -/
theorem fromradMultipliesRoundsAndWraps : Obligations.FromradMultipliesRoundsAndWraps := by
  refine ⟨fun x s => exec_of_outcome_ok (outcomeOf_fromrad_eq x s), fun w h => ?_, fun s h => ⟨?_, ?_⟩⟩
  · simp [decode, fields_of_topByte 0xB#4 h, operandX_eq_ofNat]
  · rw [h, fmul_one_defaultScale]
  · rw [wordOf_of_outcome_ok (outcomeOf_fromrad _ s), h]
    decide

/-! ## The round trips -/

/-- The round trip of every byte under the defaults (R155). -/
theorem toNat_defaultRoundTrip : ∀ b : Angle,
    (roundTrip defaultParams b).toNat = (2 * 255 * b.toNat + 64) / 128 % 256 := by
  decide +kernel

/-- 255/64 turns no byte but 0 into itself. -/
theorem round_255_64_fixed_iff : ∀ n < 256, (2 * 255 * n + 64) / 128 % 256 = n ↔ n = 0 := by
  decide +kernel

/-- Settles O45: the byte each round trip gives, which has a fixed point at 0 alone. -/
theorem defaultRoundTripIsNotTheIdentity : Obligations.DefaultRoundTripIsNotTheIdentity := by
  intro b
  have htrip := toNat_defaultRoundTrip b
  refine ⟨htrip, ?_⟩
  rw [← BitVec.toNat_inj, ← BitVec.toNat_inj, htrip]
  exact round_255_64_fixed_iff b.toNat b.isLt

theorem alternativeRoundTrip_halfAwayFromZero : ∀ b : Angle, roundTrip alternativeParams b = b := by
  decide +kernel

theorem alternativeRoundTrip_halfEven : ∀ b : Angle,
    roundTrip { alternativeParams with fromradRound := .halfEven } b = b := by
  decide +kernel

/-- R157: the bytes that `TowardZero` does not give back. -/
theorem alternativeRoundTrip_towardZero_count :
    ((List.range 256).filter fun b =>
      roundTrip { alternativeParams with fromradRound := .towardZero } (BitVec.ofNat 8 b) ≠
        BitVec.ofNat 8 b).length = 122 := by
  decide +kernel

/-- Settles O47: the round trips of all 256 bytes under the three modes. -/
theorem alternativeScaleRoundTrips : Obligations.AlternativeScaleRoundTrips :=
  ⟨fun b => ⟨alternativeRoundTrip_halfAwayFromZero b, alternativeRoundTrip_halfEven b⟩,
    alternativeRoundTrip_towardZero_count⟩

/-! ## SIN and COS with a ROM that meets its constraints -/

theorem val_flipSign_sq (b : Bool) (w : Word) : val (flipSign b w) ^ 2 = val w ^ 2 := by
  cases b
  · rfl
  · rw [flipSign_true, val_fneg, neg_sq]

/-- A quarter turn later the sine reads the index across the table. -/
theorem sinIndex_add_64_eq_sub (a : Angle) : sinIndex (a + 64#8) = 64 - sinIndex a := by
  have hlow : a.toNat % 64 < 64 := Nat.mod_lt _ (by decide)
  rw [sinIndex_add_64, sinIndex]
  split <;> omega

/-- SIN reads the first quarter of the turn forwards. -/
theorem sinWord_first_quadrant (s : State) {a : Angle} (h : a.toNat ≤ 63) :
    sinWord s a = s.sinRom[a.toNat] := by
  rw [sinWord_by_quadrant, if_pos (by omega), Nat.mod_eq_of_lt (by omega),
    sinRomAt_eq_getElem s (by omega)]

theorem SinRomConstraints.monotone_le {rom : Vector Word 65} (h : SinRomConstraints rom) {i j : Nat}
    (hij : i ≤ j) (hj : j ≤ 63) : val rom[i] ≤ val rom[j] := by
  induction j, hij using Nat.le_induction with
  | base => rfl
  | succ j hij ih => exact (ih (by omega)).trans (h.monotone j (by omega))

/-- Settles O33: SIN and COS read entries that lie across the table from each other, and SIN reads the
first quarter in order. -/
theorem trigMeetsTheSourceProperties : Obligations.TrigMeetsTheSourceProperties := by
  refine fun s hrom => ⟨fun a x y hx hy => ?_, fun a b x y hab hb hx hy => ?_⟩
  · rw [wordOf_sin] at hx
    rw [wordOf_cos, cosWord_eq_sinWord_add_64] at hy
    cases hx
    cases hy
    rw [sinWord_eq_flipSign, sinWord_eq_flipSign, val_flipSign_sq, val_flipSign_sq,
      sinIndex_add_64_eq_sub, sinRomAt_eq_getElem s (sinIndex_le a),
      sinRomAt_eq_getElem s (Nat.sub_le _ _)]
    exact hrom.unitCircle (sinIndex a) (sinIndex_le a)
  · rw [wordOf_sin] at hx hy
    cases hx
    cases hy
    rw [sinWord_first_quadrant s (by omega), sinWord_first_quadrant s hb]
    exact hrom.monotone_le hab.le hb

end Sys2Proof.Machine

/-! SUPPORT. RNE32 of 00_scope.md R11: `rne32` gives the binary32 value nearest to a quotient, ties to the even
fraction; the binary32 product is the one nearest to the exact product. -/

namespace Sys2Proof.Machine

/-! ## The value of a rounded quotient -/

/-- A significand of 24 bits in its binade has the magnitude it counts; the significand 2^24 carries into
the next exponent. -/
theorem magnitude_withSign (neg : Bool) {shift q : Nat} (hlow : shift = 0 ∨ 2 ^ 23 ≤ q)
    (hq : q ≤ 2 ^ 24) (hn : shift * 2 ^ 23 + q < 2 ^ 31) :
    magnitude (withSign neg (shift * 2 ^ 23 + q)) = q * 2 ^ shift := by
  unfold magnitude
  rw [expField_eq_div, fracField_eq_mod, toNat_withSign_mod neg hn]
  rcases lt_or_ge q (2 ^ 23) with hsub | hnormal
  · obtain rfl : shift = 0 := by omega
    rw [if_pos (by omega)]
    omega
  · rw [if_neg (by omega)]
    rcases hq.lt_or_eq with hlt | rfl
    · have he : (shift * 2 ^ 23 + q) / 2 ^ 23 = shift + 1 := by omega
      have hf : 2 ^ 23 + (shift * 2 ^ 23 + q) % 2 ^ 23 = q := by omega
      rw [he, hf, Nat.add_sub_cancel]
    · have he : (shift * 2 ^ 23 + 2 ^ 24) / 2 ^ 23 = shift + 1 + 1 := by omega
      have hf : 2 ^ 23 + (shift * 2 ^ 23 + 2 ^ 24) % 2 ^ 23 = 2 ^ 23 := by omega
      rw [he, hf, Nat.add_sub_cancel, Nat.pow_succ]
      ring

/-- Above the lowest binade the quotient fills the 24 bits. -/
theorem two_pow_le_of_binadeShift_pos {num den : Nat} (hs : 0 < binadeShift num den) :
    2 ^ (binadeShift num den + 23) * den ≤ num := by
  have hlog : Nat.log2 (num / den) = binadeShift num den + 23 := by
    unfold binadeShift at hs ⊢
    omega
  have hne : num / den ≠ 0 := by
    intro h0
    rw [h0, Nat.log2_zero] at hlog
    omega
  calc 2 ^ (binadeShift num den + 23) * den ≤ num / den * den :=
        Nat.mul_le_mul_right _ (hlog ▸ Nat.log2_self_le hne)
    _ ≤ num := Nat.div_mul_le_self num den

/-- A finite value is a whole number of units of a binade, or lies below that binade. -/
theorem two_pow_dvd_signedUnits_or_lt (v : Word) (n : Nat) :
    (∃ k, signedUnits v = k * 2 ^ n) ∨ 0 < n ∧ signedUnits v < 2 ^ (n + 23) := by
  rcases Nat.eq_zero_or_pos n with rfl | hn
  · exact .inl ⟨signedUnits v, by rw [pow_zero, mul_one]⟩
  rcases le_or_gt (2 ^ (n + 23)) (magnitude v) with hle | hlt
  · have hdvd : (2 ^ n : ℤ) ∣ (magnitude v : ℤ) := by exact_mod_cast two_pow_dvd_magnitude hle
    have hdvd' : (2 ^ n : ℤ) ∣ signedUnits v := by
      unfold signedUnits
      split
      · exact hdvd.neg_right
      · exact hdvd
    obtain ⟨k, hk⟩ := hdvd'
    exact .inl ⟨k, by rw [hk, mul_comm]⟩
  · have hlt' : (magnitude v : ℤ) < 2 ^ (n + 23) := by exact_mod_cast hlt
    refine .inr ⟨hn, ?_⟩
    unfold signedUnits
    split <;> omega

/-! ## The nearest integer, and the nearest value -/

/-- A quotient rounded half to even is the integer nearest to it, even where another is as near. -/
theorem roundQuotient_halfEven_nearest {num den : Nat} (h : 0 < den) (k : ℤ) :
    |(roundQuotient .halfEven num den : ℚ) - num / den| ≤ |k - (num / den : ℚ)| ∧
      (k ≠ roundQuotient .halfEven num den →
        |k - (num / den : ℚ)| = |(roundQuotient .halfEven num den : ℚ) - num / den| →
        roundQuotient .halfEven num den % 2 = 0) := by
  obtain ⟨hnear, heven⟩ := roundQuotient_halfEven_near (num := num) h
  generalize roundQuotient .halfEven num den = q at hnear heven ⊢
  rcases eq_or_ne k q with rfl | hne
  · exact ⟨by rw [Int.cast_natCast], fun hne => absurd rfl hne⟩
  · have hone : (1 : ℚ) ≤ |(k : ℚ) - q| := by exact_mod_cast Int.one_le_abs (sub_ne_zero.2 hne)
    have htri : |(k : ℚ) - q| ≤ |k - (num / den : ℚ)| + |q - (num / den : ℚ)| := by
      have := abs_sub (k - (num / den : ℚ)) (q - (num / den : ℚ))
      rwa [sub_sub_sub_cancel_right] at this
    exact ⟨by linarith, fun _ htie => heven (by linarith)⟩

/-- The same on the multiples of a power of two. -/
theorem roundQuotient_halfEven_nearest_multiple {num den : Nat} (h : 0 < den) (s : Nat) (k : ℤ) :
    |(roundQuotient .halfEven num (den * 2 ^ s) * 2 ^ s : ℚ) - num / den| ≤
        |(k * 2 ^ s : ℚ) - num / den| ∧
      (k ≠ roundQuotient .halfEven num (den * 2 ^ s) →
        |(k * 2 ^ s : ℚ) - num / den| =
          |(roundQuotient .halfEven num (den * 2 ^ s) * 2 ^ s : ℚ) - num / den| →
        roundQuotient .halfEven num (den * 2 ^ s) % 2 = 0) := by
  have hpos : (0 : ℚ) < 2 ^ s := by positivity
  have hscale (x : ℚ) : |x * 2 ^ s - num / den| = |x - num / (den * 2 ^ s : ℕ)| * 2 ^ s := by
    have hquot : (num / den : ℚ) = num / (den * 2 ^ s : ℕ) * 2 ^ s := by
      push_cast
      field_simp
    rw [hquot, ← sub_mul, abs_mul, abs_of_pos hpos]
  obtain ⟨hle, htie⟩ :=
    roundQuotient_halfEven_nearest (num := num) (Nat.mul_pos h (Nat.two_pow_pos s)) k
  rw [hscale, hscale]
  exact ⟨mul_le_mul_of_nonneg_right hle hpos.le,
    fun hne heq => htie hne (mul_right_cancel₀ hpos.ne' heq)⟩

/-- A number below the binade is farther from the quotient than the binade's lower end, so farther than
the rounded quotient. -/
theorem roundQuotient_halfEven_nearer_of_lt {num den : Nat} (h : 0 < den) {s : Nat} {m : ℤ}
    (hbottom : 2 ^ (s + 23) * den ≤ num) (hm : m < 2 ^ (s + 23)) :
    |(roundQuotient .halfEven num (den * 2 ^ s) * 2 ^ s : ℚ) - num / den| <
      |(m : ℚ) - num / den| := by
  have hend : (((2 ^ 23 : ℤ) : ℚ) * 2 ^ s : ℚ) = 2 ^ (s + 23) := by
    rw [pow_add, mul_comm]
    norm_num
  have hu : (2 ^ (s + 23) : ℚ) ≤ num / den := by
    rw [le_div_iff₀ (by exact_mod_cast h)]
    exact_mod_cast hbottom
  have hnear := (roundQuotient_halfEven_nearest_multiple (num := num) h s (2 ^ 23)).1
  rw [hend] at hnear
  have hm' : (m : ℚ) < 2 ^ (s + 23) := by exact_mod_cast hm
  calc |(roundQuotient .halfEven num (den * 2 ^ s) * 2 ^ s : ℚ) - num / den|
      ≤ |(2 ^ (s + 23) : ℚ) - num / den| :=
        hnear
    _ = num / den - 2 ^ (s + 23) := by rw [abs_sub_comm, abs_of_nonneg (by linarith)]
    _ < num / den - m := by linarith
    _ ≤ |(m : ℚ) - num / den| := by
        rw [abs_sub_comm]
        exact le_abs_self _

/-- The value nearest to a rational, in units of 2^-149. -/
theorem isNearest_of_units {u : ℚ} {w : Word} (hfin : isFinite w = true)
    (h : ∀ v : Word, isFinite v = true → |(signedUnits w : ℚ) - u| ≤ |(signedUnits v : ℚ) - u| ∧
      (signedUnits v ≠ signedUnits w → |(signedUnits v : ℚ) - u| = |(signedUnits w : ℚ) - u| →
        fracField w % 2 = 0)) : IsNearest ((u / 2 ^ 149 : ℚ) : ℝ) w := by
  have hscale (v : Word) : |val v - u / 2 ^ 149| = |(signedUnits v : ℚ) - u| / 2 ^ 149 := by
    rw [val_eq_signedUnits, ← sub_div, abs_div, abs_of_pos (by positivity : (0 : ℚ) < 2 ^ 149)]
  have hpos : (0 : ℚ) < 2 ^ 149 := by positivity
  refine ⟨hfin, fun v hv => ?_⟩
  obtain ⟨hle, htie⟩ := h v hv
  have hle' : |val w - u / 2 ^ 149| ≤ |val v - u / 2 ^ 149| := by
    rw [hscale, hscale]
    exact div_le_div_of_nonneg_right hle hpos.le
  refine ⟨by exact_mod_cast hle', fun hne heq => htie (fun hsame => hne ?_) ?_⟩
  · rw [val_eq_signedUnits, val_eq_signedUnits, hsame]
  · have heq' : |val v - u / 2 ^ 149| = |val w - u / 2 ^ 149| := by exact_mod_cast heq
    rwa [hscale, hscale, div_left_inj' hpos.ne'] at heq'

theorem signBit_withSign (neg : Bool) (mag : Nat) : signBit (withSign neg mag) = neg := by
  have h : signBit (withSign neg mag) = (BitVec.ofBool neg ++ BitVec.ofNat 31 mag).getLsbD 31 := rfl
  rw [h, BitVec.getLsbD_append]
  cases neg <;> rfl

/-- Below infinity the rounded pattern is its binade and its significand. -/
theorem rne32_of_lt {num den : Nat} (h : rne32 num den < 0x7F800000) :
    rne32 num den = binadeShift num den * 2 ^ 23 +
      roundQuotient .halfEven num (den * 2 ^ binadeShift num den) := by
  rw [rne32_eq] at h ⊢
  omega

theorem isFinite_withSign_iff (neg : Bool) {mag : Nat} (h : mag < 2 ^ 31) :
    isFinite (withSign neg mag) = true ↔ mag < 0x7F800000 := by
  rw [isFinite_iff, toNat_withSign_mod neg h]

theorem signedUnits_rne32 {num den : Nat} (hden : 0 < den) (h : rne32 num den < 0x7F800000) :
    signedUnits (withSign false (rne32 num den)) =
      roundQuotient .halfEven num (den * 2 ^ binadeShift num den) * 2 ^ binadeShift num den := by
  have hlow : binadeShift num den = 0 ∨
      2 ^ 23 ≤ roundQuotient .halfEven num (den * 2 ^ binadeShift num den) :=
    (Nat.eq_zero_or_pos _).imp_right (le_significand hden)
  have hn := rne32_of_lt h
  rw [hn] at h
  rw [hn, signedUnits, signBit_withSign, if_neg Bool.false_ne_true,
    magnitude_withSign false hlow (significand_le num hden) (by omega)]
  push_cast
  rfl

theorem fracField_rne32_mod_two {num den : Nat} (h : rne32 num den < 0x7F800000) :
    fracField (withSign false (rne32 num den)) % 2 =
      roundQuotient .halfEven num (den * 2 ^ binadeShift num den) % 2 := by
  rw [fracField_eq_mod, toNat_withSign_mod false (by omega), rne32_of_lt h]
  omega

/-- `rne32` gives the nearest value: in the quotient's binade and above, values are whole numbers of the
binade's units, and a value below the binade is farther off than the binade's own lower end (R11). -/
theorem isNearest_rne32 {num den : Nat} (hden : 0 < den) (h : rne32 num den < 0x7F800000) :
    IsNearest (((num / den : ℚ) / 2 ^ 149 : ℚ) : ℝ) (withSign false (rne32 num den)) := by
  have hw := signedUnits_rne32 hden h
  have hfrac := fracField_rne32_mod_two h
  have hfin := (isFinite_withSign_iff false (by omega)).2 h
  have hbottom := @two_pow_le_of_binadeShift_pos num den
  generalize withSign false (rne32 num den) = w at hw hfrac hfin
  generalize binadeShift num den = s at hw hfrac hbottom
  refine isNearest_of_units hfin fun v _ => ?_
  rw [hw, hfrac]
  push_cast
  rcases two_pow_dvd_signedUnits_or_lt v s with ⟨k, hk⟩ | ⟨hs, hlt⟩
  · obtain ⟨hle, htie⟩ := roundQuotient_halfEven_nearest_multiple (num := num) hden s k
    rw [hk]
    push_cast
    exact ⟨hle, fun hne => htie (fun hsame => hne (by rw [hsame]))⟩
  · have hnearer := roundQuotient_halfEven_nearer_of_lt hden (hbottom hs) hlt
    exact ⟨hnearer.le, fun _ heq => absurd heq hnearer.ne'⟩

/-! ## The product -/

theorem withSign_true {mag : Nat} (h : mag < 2 ^ 31) :
    withSign true mag = fneg (withSign false mag) := by
  apply word_eq_of_fields
  · rw [signBit_fneg, signBit_withSign, signBit_withSign, Bool.not_false]
  · rw [expField_fneg, expField_eq_div, expField_eq_div, toNat_withSign_mod _ h, toNat_withSign_mod _ h]
  · rw [fracField_fneg, fracField_eq_mod, fracField_eq_mod, toNat_withSign_mod _ h,
      toNat_withSign_mod _ h]

theorem isFinite_fneg (w : Word) : isFinite (fneg w) = isFinite w := by
  rw [isFinite, isFinite, expField_fneg]

/-- The value nearest to the negation is the negation. -/
theorem IsNearest.neg {r : ℝ} {w : Word} (h : IsNearest r w) : IsNearest (-r) (fneg w) := by
  obtain ⟨hfin, hnear⟩ := h
  have hflip (v : Word) : |((val v : ℚ) : ℝ) - -r| = |((val (fneg v) : ℚ) : ℝ) - r| := by
    rw [val_fneg, Rat.cast_neg, ← abs_neg]
    congr 1
    ring
  refine ⟨by rwa [isFinite_fneg], fun v hv => ?_⟩
  obtain ⟨hle, htie⟩ := hnear (fneg v) (by rwa [isFinite_fneg])
  rw [hflip, hflip, fneg_fneg]
  refine ⟨hle, fun hne heq => ?_⟩
  have heven := htie (fun hsame => hne ?_) heq
  · exact (congrArg (· % 2) (fracField_fneg w)).trans heven
  · rw [val_fneg, ← hsame, val_fneg, neg_neg]

theorem rne32_le (num den : Nat) : rne32 num den ≤ 0x7F800000 := min_le_right _ _

/-- The magnitudes whose quotient by `unitsPerOne` rounds to infinity: in units, those from halfway between
the largest finite value and 2^128. -/
theorem rne32_lt_iff (n : Nat) :
    rne32 n unitsPerOne < 0x7F800000 ↔ n < (2 ^ 128 - 2 ^ 103) * unitsPerOne ^ 2 := by
  have hpos : 0 < unitsPerOne := unitsPerOne_pos
  constructor
  · intro h
    by_contra hle
    have hmono := rne32_mono (not_lt.1 hle) hpos
    have htop : rne32 ((2 ^ 128 - 2 ^ 103) * unitsPerOne ^ 2) unitsPerOne = 0x7F800000 := by decide +kernel
    omega
  · intro h
    have hmono := rne32_mono (Nat.le_sub_one_of_lt h) hpos
    have htop : rne32 ((2 ^ 128 - 2 ^ 103) * unitsPerOne ^ 2 - 1) unitsPerOne = 0x7F7FFFFF := by
      decide +kernel
    omega

/-- The product of two values below its sign. -/
theorem abs_val_mul_val (a b : Word) :
    |val a * val b| = (magnitude a * magnitude b : ℕ) / (unitsPerOne : ℚ) ^ 2 := by
  rw [abs_mul, abs_val, abs_val, div_mul_div_comm, Nat.cast_mul, pow_two]

theorem abs_val_mul_val_lt_iff (a b : Word) :
    |val a * val b| < 2 ^ 128 - 2 ^ 103 ↔
      rne32 (magnitude a * magnitude b) unitsPerOne < 0x7F800000 := by
  have hpos : (0 : ℚ) < (unitsPerOne : ℚ) ^ 2 := pow_pos (by exact_mod_cast unitsPerOne_pos) 2
  have hcast : ((2 ^ 128 - 2 ^ 103) * (unitsPerOne : ℚ) ^ 2) =
      ((2 ^ 128 - 2 ^ 103) * unitsPerOne ^ 2 : ℕ) := by
    push_cast
    norm_num
  rw [abs_val_mul_val, rne32_lt_iff, div_lt_iff₀ hpos, hcast, Nat.cast_lt]

/-- A value is its magnitude with its sign. -/
theorem val_eq_sign_mul_abs (w : Word) : val w = (if signBit w then -1 else 1) * |val w| := by
  have hone : (unitsPerOne : ℚ) = 2 ^ 149 := by norm_num [unitsPerOne]
  rw [abs_val, val_eq_signedUnits, signedUnits, hone]
  cases signBit w <;> simp [neg_div]

/-- The sign of an exact product is the XOR of the signs. -/
theorem val_mul_val_eq_sign_mul_abs (a b : Word) :
    val a * val b = (if signBit a ^^ signBit b then -1 else 1) * |val a * val b| := by
  rw [val_eq_sign_mul_abs a, val_eq_sign_mul_abs b, abs_mul]
  cases signBit a <;> cases signBit b <;> simp

theorem fmul_of_finite {a b : Word} (ha : isFinite a = true) (hb : isFinite b = true) : fmul a b =
    withSign (signBit a ^^ signBit b) (rne32 (magnitude a * magnitude b) unitsPerOne) := by
  rw [fmul, ha, hb, Bool.and_self, if_pos rfl]

/-- The product that does not overflow is the value nearest to the exact one, whose sign is the XOR. -/
theorem isNearest_fmul {a b : Word} (ha : isFinite a = true) (hb : isFinite b = true)
    (h : |val a * val b| < 2 ^ 128 - 2 ^ 103) : IsNearest ((val a * val b : ℚ) : ℝ) (fmul a b) := by
  have hlt := (abs_val_mul_val_lt_iff a b).1 h
  have hnear := isNearest_rne32 unitsPerOne_pos hlt
  have habs : ((magnitude a * magnitude b : ℕ) / unitsPerOne : ℚ) / 2 ^ 149 = |val a * val b| := by
    have hone : (2 ^ 149 : ℚ) = unitsPerOne := by norm_num [unitsPerOne]
    rw [abs_val_mul_val, div_div, hone, pow_two]
  rw [habs] at hnear
  rw [fmul_of_finite ha hb, val_mul_val_eq_sign_mul_abs a b]
  cases signBit a ^^ signBit b
  · simpa using hnear
  · rw [withSign_true (by omega)]
    simpa using hnear.neg

/-- From halfway between the largest finite value and 2^128 on the product is an infinity (R11). -/
theorem fmul_infinite {a b : Word} (ha : isFinite a = true) (hb : isFinite b = true)
    (h : 2 ^ 128 - 2 ^ 103 ≤ |val a * val b|) : fmul a b &&& 0x7FFFFFFF#32 = 0x7F800000#32 := by
  have hrne : rne32 (magnitude a * magnitude b) unitsPerOne = 0x7F800000 :=
    (rne32_le _ _).antisymm (not_lt.1 fun hlt => h.not_gt ((abs_val_mul_val_lt_iff a b).2 hlt))
  have hmod := toNat_fmul_mod ha hb
  apply BitVec.eq_of_toNat_eq
  rw [BitVec.toNat_and, BitVec.toNat_ofNat, BitVec.toNat_ofNat]
  have hmask : (fmul a b).toNat &&& (2 ^ 31 - 1) = _ := Nat.and_two_pow_sub_one_eq_mod _ _
  rw [hmod, hrne] at hmask
  exact hmask

/-- Settles O40: the magnitudes multiply exactly and `rne32` rounds their product; the sign goes beside. -/
theorem productIsCorrectlyRounded : Obligations.ProductIsCorrectlyRounded := by
  refine ⟨fun a b ha hb => ⟨isNearest_fmul ha hb, fmul_infinite ha hb, ?_⟩,
    fun w => ⟨rfl, val_fneg w⟩⟩
  rw [fmul_of_finite ha hb]
  exact signBit_withSign _ _

end Sys2Proof.Machine

/-! SUPPORT. R27 to R32 of 10_state.md: the reference tables. A real number between two rationals that round to
one word rounds to that word; the rationals come from bounds on π and from the Taylor sums of the sine. -/

namespace Sys2Proof.Machine

/-! ## Rounding a real by its rational bounds -/

/-- Which of two numbers is nearer is decided by their midpoint. -/
theorem abs_sub_le_abs_sub_iff_of_lt {x y : ℝ} (r : ℝ) (h : x < y) :
    |x - r| ≤ |y - r| ↔ 2 * r ≤ x + y := by
  rw [← sq_le_sq]
  constructor <;> intro h' <;> nlinarith

theorem abs_sub_le_abs_sub_iff_of_gt {x y : ℝ} (r : ℝ) (h : y < x) :
    |x - r| ≤ |y - r| ↔ x + y ≤ 2 * r := by
  rw [← sq_le_sq]
  constructor <;> intro h' <;> nlinarith

/-- The reals a word is nearest to form an interval. -/
theorem IsNearest.of_mem_Icc {a b r : ℝ} {w : Word} (ha : IsNearest a w) (hb : IsNearest b w)
    (har : a ≤ r) (hrb : r ≤ b) : IsNearest r w := by
  refine ⟨ha.1, fun v hv => ?_⟩
  obtain ⟨hale, hatie⟩ := ha.2 v hv
  obtain ⟨hble, hbtie⟩ := hb.2 v hv
  rcases lt_trichotomy (val w) (val v) with hlt | heq | hgt
  · have hlt' : ((val w : ℚ) : ℝ) < ((val v : ℚ) : ℝ) := by exact_mod_cast hlt
    rw [abs_sub_le_abs_sub_iff_of_lt _ hlt'] at hble ⊢
    refine ⟨by linarith, fun hne heq => hbtie hne (le_antisymm ?_ ?_)⟩
    · have := (abs_sub_le_abs_sub_iff_of_gt r hlt').1 heq.le
      exact (abs_sub_le_abs_sub_iff_of_gt b hlt').2 (by linarith)
    · exact (abs_sub_le_abs_sub_iff_of_lt b hlt').2 hble
  · exact ⟨by rw [heq], fun hne => absurd heq.symm hne⟩
  · have hgt' : ((val v : ℚ) : ℝ) < ((val w : ℚ) : ℝ) := by exact_mod_cast hgt
    rw [abs_sub_le_abs_sub_iff_of_gt _ hgt'] at hale ⊢
    refine ⟨by linarith, fun hne heq => hatie hne (le_antisymm ?_ ?_)⟩
    · have := (abs_sub_le_abs_sub_iff_of_lt r hgt').1 heq.le
      exact (abs_sub_le_abs_sub_iff_of_lt a hgt').2 (by linarith)
    · exact (abs_sub_le_abs_sub_iff_of_gt a hgt').2 hale

/-- RNE32 of a rational that is not negative (00_scope.md R11). -/
def nearestWord (q : ℚ) : Word := withSign false (rne32 (q.num.toNat * unitsPerOne) q.den)

theorem isNearest_nearestWord {q : ℚ} (hq : 0 ≤ q) (hfin : isFinite (nearestWord q) = true) :
    IsNearest (q : ℝ) (nearestWord q) := by
  have hlt : rne32 (q.num.toNat * unitsPerOne) q.den < 0x7F800000 :=
    (isFinite_withSign_iff false ((rne32_le _ _).trans_lt (by decide))).1 hfin
  have hnear := isNearest_rne32 q.den_pos hlt
  have hval : ((q.num.toNat * unitsPerOne : ℕ) / q.den : ℚ) / 2 ^ 149 = q := by
    have hone : (2 ^ 149 : ℚ) = unitsPerOne := by norm_num [unitsPerOne]
    have hnum : ((q.num.toNat : ℕ) : ℚ) = q.num := by
      exact_mod_cast Int.toNat_of_nonneg (Rat.num_nonneg.2 hq)
    have hne : (unitsPerOne : ℚ) ≠ 0 := by exact_mod_cast unitsPerOne_pos.ne'
    rw [hone, Nat.cast_mul, div_right_comm, mul_div_cancel_right₀ _ hne, hnum, Rat.num_div_den]
  rwa [hval] at hnear

/-- Between rationals that round to one finite word, every real rounds to it. -/
theorem isNearest_of_bounds {lo hi : ℚ} {w : Word} {r : ℝ} (hlo : 0 ≤ lo) (hfin : isFinite w = true)
    (hlow : nearestWord lo = w) (hhigh : nearestWord hi = w) (h₁ : (lo : ℝ) ≤ r) (h₂ : r ≤ (hi : ℝ)) :
    IsNearest r w := by
  have hhi : 0 ≤ hi := by
    have : (lo : ℝ) ≤ (hi : ℝ) := h₁.trans h₂
    exact hlo.trans (by exact_mod_cast this)
  have ha : IsNearest (lo : ℝ) w := hlow ▸ isNearest_nearestWord hlo (hlow ▸ hfin)
  have hb : IsNearest (hi : ℝ) w := hhigh ▸ isNearest_nearestWord hhi (hhigh ▸ hfin)
  exact ha.of_mem_Icc hb h₁ h₂

/-! ## RAD_ROM and RAD_SCALE -/

/-- π to twenty places, from below. -/
def piLow : ℚ := 314159265358979323846 / 10 ^ 20

/-- π to twenty places, from above. -/
def piHigh : ℚ := 314159265358979323847 / 10 ^ 20

theorem piLow_lt_pi : (piLow : ℝ) < Real.pi := by
  have h := Real.pi_gt_d20
  norm_num [piLow] at h ⊢
  exact h

theorem pi_lt_piHigh : Real.pi < (piHigh : ℝ) := by
  have h := Real.pi_lt_d20
  norm_num [piHigh] at h ⊢
  exact h

/-- Every entry is what both bounds of i·π/128 round to (R30). -/
theorem defaultRadRom_rounds : ∀ i : Fin 256, isFinite defaultRadRom[i.val] = true ∧
    nearestWord (i.val * piLow / 128) = defaultRadRom[i.val] ∧
    nearestWord (i.val * piHigh / 128) = defaultRadRom[i.val] := by
  decide +kernel

theorem defaultRadRom_increasing : ∀ i : Fin 255,
    signedUnits defaultRadRom[i.val] < signedUnits defaultRadRom[i.val + 1] := by
  decide +kernel

/-- The default scale is what both bounds of 510/π round to (R32). -/
theorem defaultScale_rounds :
    nearestWord (510 / piHigh) = 0x4322568A#32 ∧ nearestWord (510 / piLow) = 0x4322568A#32 := by
  decide +kernel

theorem val_nonneg_of_signBit {w : Word} (h : signBit w = false) : 0 ≤ val w := by
  rw [val_eq_sign_mul_abs, h]
  simp

theorem radRomConstraints_default : RadRomConstraints defaultRadRom := by
  refine ⟨by decide +kernel, fun i hi => ?_, fun i hi => ?_⟩
  · exact (val_lt_iff _ _).2 (defaultRadRom_increasing ⟨i, Nat.lt_succ_of_le hi⟩)
  · obtain ⟨hfin, hlow, -⟩ := defaultRadRom_rounds ⟨i, Nat.lt_succ_of_le hi⟩
    exact ⟨hfin, val_nonneg_of_signBit (hlow ▸ signBit_withSign _ _)⟩

/-- Settles O35: each angle in radians, and the scale, lies between two rationals that round to the word. -/
theorem defaultRadRomIsCorrectlyRounded : Obligations.DefaultRadRomIsCorrectlyRounded := by
  have hlow := piLow_lt_pi
  have hhigh := pi_lt_piHigh
  refine ⟨radRomConstraints_default, fun i hi => ?_, ?_⟩
  · obtain ⟨hfin, hlo, hhi⟩ := defaultRadRom_rounds ⟨i, hi⟩
    refine isNearest_of_bounds (by unfold piLow; positivity) hfin hlo hhi ?_ ?_ <;>
      push_cast <;> gcongr
  · obtain ⟨hlo, hhi⟩ := defaultScale_rounds
    refine isNearest_of_bounds (by unfold piHigh; positivity) (by decide) hlo hhi ?_ ?_ <;> push_cast
    · gcongr
    · have hpos : (0 : ℝ) < piLow := by norm_num [piLow]
      gcongr

/-! ## The Taylor sums of the sine -/

/-- The first `n` terms of the sine's series. -/
def sinSum (x : ℚ) : ℕ → ℚ
  | 0 => 0
  | n + 1 => sinSum x n + (-1) ^ n * x ^ (2 * n + 1) / (2 * n + 1).factorial

/-- The sum is the imaginary part of the exponential's. -/
theorem im_exp_sum (x : ℚ) (n : ℕ) :
    (∑ m ∈ Finset.range (2 * n), (((x : ℝ) : ℂ) * Complex.I) ^ m / (m.factorial : ℂ)).im = sinSum x n := by
  induction n with
  | zero => simp [sinSum]
  | succ n ih =>
    have heven : (((x : ℝ) : ℂ) * Complex.I) ^ (2 * n) / ((2 * n).factorial : ℂ) =
        (((-1) ^ n * (x : ℝ) ^ (2 * n) / (2 * n).factorial : ℝ) : ℂ) := by
      rw [mul_pow, pow_mul Complex.I, Complex.I_sq]
      push_cast
      ring
    have hodd : (((x : ℝ) : ℂ) * Complex.I) ^ (2 * n + 1) / ((2 * n + 1).factorial : ℂ) =
        (((-1) ^ n * (x : ℝ) ^ (2 * n + 1) / (2 * n + 1).factorial : ℝ) : ℂ) * Complex.I := by
      rw [mul_pow, pow_succ Complex.I, pow_mul Complex.I, Complex.I_sq]
      push_cast
      ring
    rw [Nat.mul_succ, Finset.sum_range_succ, Finset.sum_range_succ, heven, hodd, Complex.add_im,
      Complex.add_im, ih, Complex.ofReal_im, add_zero, Complex.mul_I_im, Complex.ofReal_re, sinSum]
    push_cast
    rfl

/-- The sine is its Taylor sum up to twice the first term left out. -/
theorem abs_sin_sub_sinSum_le {x : ℚ} (n : ℕ) (hx : 0 ≤ x) (h : x ≤ n) :
    |Real.sin x - sinSum x n| ≤ (x : ℝ) ^ (2 * n) / (2 * n).factorial * 2 := by
  have hnorm : ‖((x : ℝ) : ℂ) * Complex.I‖ = (x : ℝ) := by
    rw [norm_mul, Complex.norm_I, mul_one, Complex.norm_real, Real.norm_of_nonneg (by exact_mod_cast hx)]
  have hbound : ‖((x : ℝ) : ℂ) * Complex.I‖ / ((2 * n).succ : ℝ) ≤ 1 / 2 := by
    have h' : (x : ℝ) ≤ n := by exact_mod_cast h
    rw [hnorm, div_le_iff₀ (by positivity)]
    push_cast
    linarith
  have hexp := Complex.exp_bound' hbound
  rw [hnorm] at hexp
  calc |Real.sin x - sinSum x n|
      = |(Complex.exp (((x : ℝ) : ℂ) * Complex.I) - ∑ m ∈ Finset.range (2 * n),
          (((x : ℝ) : ℂ) * Complex.I) ^ m / (m.factorial : ℂ)).im| := by
        rw [Complex.sub_im, im_exp_sum, Complex.exp_ofReal_mul_I_im]
    _ ≤ _ := (Complex.abs_im_le_norm _).trans hexp

/-! ## SIN_ROM -/

/-- The angle of the index in radians, from below. -/
def radiansLow (i : ℕ) : ℚ := i * piLow / 128

/-- How far the Taylor sum can be from the sine of the index. -/
def sinError : ℚ := 1 / 10 ^ 18

/-- Every entry but the first is what both bounds of sin(i·π/128) round to (R27). -/
theorem defaultSinRom_rounds : ∀ i : Fin 65, i ≠ 0 → isFinite defaultSinRom[i.val] = true ∧
    0 ≤ sinSum (radiansLow i) 12 - sinError ∧
    nearestWord (sinSum (radiansLow i) 12 - sinError) = defaultSinRom[i.val] ∧
    nearestWord (sinSum (radiansLow i) 12 + sinError) = defaultSinRom[i.val] := by
  decide +kernel

theorem radiansLow_nonneg (i : ℕ) : 0 ≤ radiansLow i := by
  unfold radiansLow piLow
  positivity

theorem radiansLow_le {i : ℕ} (h : i ≤ 64) : radiansLow i ≤ 8 / 5 := by
  have h' : (i : ℚ) ≤ 64 := by exact_mod_cast h
  unfold radiansLow piLow
  linarith

theorem abs_index_sub_radiansLow_le {i : ℕ} (h : i ≤ 64) :
    |i * Real.pi / 128 - radiansLow i| ≤ 1 / 10 ^ 20 := by
  have hlow := piLow_lt_pi
  have hhigh := pi_lt_piHigh
  have h' : (i : ℝ) ≤ 64 := by exact_mod_cast h
  have hgap : (piHigh : ℝ) - piLow = 1 / 10 ^ 20 := by norm_num [piLow, piHigh]
  have heq : i * Real.pi / 128 - radiansLow i = i / 128 * (Real.pi - piLow) := by
    rw [radiansLow]
    push_cast
    ring
  rw [heq, abs_of_nonneg (mul_nonneg (by positivity) (by linarith))]
  calc (i : ℝ) / 128 * (Real.pi - piLow) ≤ 1 * (Real.pi - piLow) := by
        gcongr
        linarith
    _ ≤ 1 / 10 ^ 20 := by linarith

/-- π is bounded well enough, and twelve terms of the series are enough, for the sine of an index. -/
theorem abs_sin_index_sub_sinSum_le {i : ℕ} (h : i ≤ 64) :
    |Real.sin (i * Real.pi / 128) - sinSum (radiansLow i) 12| ≤ sinError := by
  have hx := radiansLow_le h
  have hangle := (Real.abs_sin_sub_sin_le (i * Real.pi / 128) (radiansLow i)).trans
    (abs_index_sub_radiansLow_le h)
  have hsum := abs_sin_sub_sinSum_le 12 (radiansLow_nonneg i) (hx.trans (by norm_num))
  have htail : (radiansLow i : ℝ) ^ (2 * 12) / (2 * 12).factorial * 2 ≤ 3 / 10 ^ 19 := by
    have hx' : (radiansLow i : ℝ) ≤ 8 / 5 := by
      have hcast := (Rat.cast_le (K := ℝ)).2 hx
      push_cast at hcast
      exact hcast
    have h0 : (0 : ℝ) ≤ radiansLow i := by exact_mod_cast radiansLow_nonneg i
    calc (radiansLow i : ℝ) ^ (2 * 12) / (2 * 12).factorial * 2
        ≤ (8 / 5) ^ (2 * 12) / (2 * 12).factorial * 2 := by gcongr
      _ ≤ 3 / 10 ^ 19 := by norm_num [Nat.factorial]
  calc |Real.sin (i * Real.pi / 128) - sinSum (radiansLow i) 12|
      ≤ |Real.sin (i * Real.pi / 128) - Real.sin (radiansLow i)| +
          |Real.sin (radiansLow i) - sinSum (radiansLow i) 12| := abs_sub_le _ _ _
    _ ≤ 1 / 10 ^ 20 + 3 / 10 ^ 19 := add_le_add hangle (hsum.trans htail)
    _ ≤ sinError := by norm_num [sinError]

/-- Settles O60: the sine of each index lies between two rationals that round to the entry; that of 0 is
+0.0 itself. -/
theorem defaultSinRomIsCorrectlyRounded : Obligations.DefaultSinRomIsCorrectlyRounded := by
  intro i hi
  rcases Nat.eq_zero_or_pos i with rfl | hpos
  · have hzero : nearestWord 0 = defaultSinRom[0] := by decide +kernel
    have hnear := isNearest_nearestWord le_rfl (hzero ▸ by decide +kernel)
    simpa [hzero] using hnear
  · have hne : (⟨i, Nat.lt_succ_of_le hi⟩ : Fin 65) ≠ 0 := fun h => hpos.ne' (congrArg Fin.val h)
    obtain ⟨hfin, hnonneg, hlow, hhigh⟩ := defaultSinRom_rounds _ hne
    obtain ⟨hle, hge⟩ := abs_le.1 (abs_sin_index_sub_sinSum_le hi)
    refine isNearest_of_bounds hnonneg hfin hlow hhigh ?_ ?_ <;> push_cast <;> linarith

/-! ## The constraints on SIN_ROM -/

theorem defaultSinRom_increasing : ∀ i : Fin 64,
    signedUnits defaultSinRom[i.val] < signedUnits defaultSinRom[i.val + 1] := by
  decide +kernel

/-- How far the squares of two values are from one, in units. -/
theorem abs_sq_add_sq_sub_one_le {v w : Word} {p q : ℕ} (hq : 0 < q)
    (h : q * (signedUnits v ^ 2 + signedUnits w ^ 2 - (unitsPerOne : ℤ) ^ 2).natAbs ≤
      p * unitsPerOne ^ 2) : |val v ^ 2 + val w ^ 2 - 1| ≤ (p / q : ℚ) := by
  have hone : (2 ^ 149 : ℚ) = unitsPerOne := by norm_num [unitsPerOne]
  have hpos : (0 : ℚ) < (unitsPerOne : ℚ) ^ 2 := pow_pos (by exact_mod_cast unitsPerOne_pos) 2
  have heq : val v ^ 2 + val w ^ 2 - 1 =
      ((signedUnits v ^ 2 + signedUnits w ^ 2 - (unitsPerOne : ℤ) ^ 2 : ℤ) : ℚ) /
        (unitsPerOne : ℚ) ^ 2 := by
    rw [val_eq_signedUnits, val_eq_signedUnits, hone, eq_div_iff hpos.ne', sub_mul, add_mul,
      div_pow, div_pow, div_mul_cancel₀ _ hpos.ne', div_mul_cancel₀ _ hpos.ne', one_mul]
    push_cast
    rfl
  rw [heq, abs_div, abs_of_pos hpos, div_le_div_iff₀ hpos (by exact_mod_cast hq), mul_comm,
    ← Int.cast_abs, ← Int.natCast_natAbs]
  exact_mod_cast h

theorem defaultSinRom_unitCircle : ∀ i : Fin 65,
    1000000000 * (signedUnits defaultSinRom[i.val] ^ 2 + signedUnits defaultSinRom[64 - i.val] ^ 2 -
      (unitsPerOne : ℤ) ^ 2).natAbs ≤ 58 * unitsPerOne ^ 2 := by
  decide +kernel

/-- Settles O34: the check of R28 in integers, and two sharper ones. -/
theorem defaultSinRomMeetsItsConstraints : Obligations.DefaultSinRomMeetsItsConstraints := by
  refine ⟨sinRomConstraints_of_check (by decide +kernel), by decide +kernel, fun i hi => ?_,
    fun i hi => ?_⟩
  · exact (val_lt_iff _ _).2 (defaultSinRom_increasing ⟨i, Nat.lt_succ_of_le hi⟩)
  · exact_mod_cast abs_sq_add_sq_sub_one_le (by decide)
      (defaultSinRom_unitCircle ⟨i, Nat.lt_succ_of_le hi⟩)

end Sys2Proof.Machine
